-- ==== Sys2Proof/Word.lean ====
section
/-! DEFINITION. The bit-vector types of the block: names for the widths the spec gives (00_scope.md R8, R10). -/

namespace Sys2Proof

/-- A command word (30_encoding.md R71). -/
abbrev Word := BitVec 32

/-- An 8-bit register, port or ROM entry: OUT, RESP, AMP, a WAVE or ENV entry (20_memory.md R57). -/
abbrev Byte := BitVec 8

/-- A 16-bit accumulator or increment, in the fixed-point convention of 00_scope.md R15:
bits 15:8 are the integer part and bits 7:0 the fraction. -/
abbrev Fixed := BitVec 16

/-- A channel index, 0 to 7: every access to the Voice Bank names its voice by three bits
(10_state.md R20, 40_voice_config.md R100). -/
abbrev Channel := BitVec 3

/-- A 7-bit table index: a PITCH or LENGTH operand, an envelope-table position (20_memory.md R50). -/
abbrev Index7 := BitVec 7

end Sys2Proof
end

