-- ==== Sys2Proof/Syntax.lean ====
section
/-! DEFINITION. The commands of the block, one constructor per row of spec/opcode_table.json (30_encoding.md R72, R81), and
the lines of its assembler (R83 to R85). -/

namespace Sys2Proof

/-- A decoded command word, with its operands at the widths of 30_encoding.md R78. Operand order is that of R81. -/
inductive Instr where
  | nop
  | configure  (ch : Channel) (wave : BitVec 3) (pitch : Index7) (env : BitVec 3) (length : Index7)
  | start      (ch : Channel)
  | stop       (ch : Channel)
  | playNote   (wave : BitVec 3) (pitch : Index7) (env : BitVec 3) (length : Index7)
  | pause
  | nextRr
  | nextMf
  | readPitch  (ch : Channel)
  | readLength (ch : Channel)
  | reserved
deriving DecidableEq, Repr

/-- The command's name in the opcode table. -/
def Instr.mnemonic : Instr → String
  | .nop => "NOP"
  | .configure .. => "CONFIGURE"
  | .start _ => "START"
  | .stop _ => "STOP"
  | .playNote .. => "PLAY_NOTE"
  | .pause => "PAUSE"
  | .nextRr => "NEXT_RR"
  | .nextMf => "NEXT_MF"
  | .readPitch _ => "READ_PITCH"
  | .readLength _ => "READ_LENGTH"
  | .reserved => "RESERVED"

/-- One line of assembly with its operands as the integers written (30_encoding.md R83), the pseudo-instructions NOTE and
STOPALL among them (R85). RESUME is no line of its own: R85 gives it no expansion (DEDUCED, log 7, safe). -/
inductive AsmCmd where
  | nop
  | configure  (ch wave pitch env length : Int)
  | start      (ch : Int)
  | stop       (ch : Int)
  | playNote   (wave pitch env length : Int)
  | pause
  | nextRr
  | nextMf
  | readPitch  (ch : Int)
  | readLength (ch : Int)
  | note       (ch wave pitch env length : Int)
  | stopAll
deriving DecidableEq, Repr

end Sys2Proof
end

