-- ==== Sys2Proof/WellFormed.lean ====
section
/-! DEFINITION. Which assembly lines are well-formed (30_encoding.md R84). A decoded command needs no check: its operands
carry the widths of R78 in their types, and every operand value is allowed (R80: "every 32-bit word is one of the commands"). -/

namespace Sys2Proof

/-- `pitch` and `length` must index their 128-entry tables; outside 0 to 127 the assembler refuses the line (R84). -/
def tableIndexOk (n : Int) : Bool := decide (0 ≤ n) && decide (n ≤ 127)

/-- `wave` and `env` must fit their 3-bit fields; outside 0 to 7 the assembler refuses the line. The ids the block does not
recognise (wave 5 to 7, env 4 to 7) are accepted as given (R84). -/
def selectorOk (n : Int) : Bool := decide (0 ≤ n) && decide (n ≤ 7)

/-- The four note operands of CONFIGURE, PLAY_NOTE and NOTE. -/
def noteOperandsOk (wave pitch env length : Int) : Bool :=
  selectorOk wave && tableIndexOk pitch && selectorOk env && tableIndexOk length

/-- The assembler accepts the line (R84). `ch` may be any integer. -/
def AsmCmd.wellFormed : AsmCmd → Bool
  | .configure _ wave pitch env length => noteOperandsOk wave pitch env length
  | .playNote wave pitch env length => noteOperandsOk wave pitch env length
  | .note _ wave pitch env length => noteOperandsOk wave pitch env length
  | .nop => true
  | .start _ => true
  | .stop _ => true
  | .pause => true
  | .nextRr => true
  | .nextMf => true
  | .readPitch _ => true
  | .readLength _ => true
  | .stopAll => true

end Sys2Proof
end

