-- ==== Sys2Proof/Decode.lean ====
section
/-! DEFINITION. The decoder and the encoder of command words (30_encoding.md R71 to R81, R86). Both are total: every 32-bit
word is a command or the reserved no-effect word (R80), so the decoder refuses nothing. -/

namespace Sys2Proof

/-! ## Fields of a command word (R73 to R78) -/

/-- OP = cmd[31:29] (R71). -/
def opField (w : Word) : BitVec 3 := w.extractLsb' 29 3
/-- CH = cmd[28:26] (R78). -/
def chField (w : Word) : Channel := w.extractLsb' 26 3
/-- WAVE = cmd[25:23] (R78). -/
def waveField (w : Word) : BitVec 3 := w.extractLsb' 23 3
/-- ENV = cmd[22:20] (R78). -/
def envField (w : Word) : BitVec 3 := w.extractLsb' 20 3
/-- PITCH = cmd[19:13] (R78). -/
def pitchField (w : Word) : Index7 := w.extractLsb' 13 7
/-- LENGTH = cmd[12:6] (R78). -/
def lengthField (w : Word) : Index7 := w.extractLsb' 6 7
/-- SEL = cmd[25:24], format Q only (R76, R78). -/
def selField (w : Word) : BitVec 2 := w.extractLsb' 24 2

/-! ## The decoder (R81) -/

/-- Format Q, OP = 0b110: SEL chooses the query, and all four values are assigned (R72, R80). -/
def decodeQuery (w : Word) : Instr :=
  if selField w = 0b00#2 then .nextRr
  else if selField w = 0b01#2 then .nextMf
  else if selField w = 0b10#2 then .readPitch (chField w)
  else .readLength (chField w)

/-- The command a word stands for (R81). The last arm is OP = 0b111, the only opcode left. Bits outside the fields a format
names are not read, so non-zero reserved bits are ignored (R79). -/
def decode (w : Word) : Instr :=
  if opField w = 0b000#3 then .nop
  else if opField w = 0b001#3 then
    .configure (chField w) (waveField w) (pitchField w) (envField w) (lengthField w)
  else if opField w = 0b010#3 then .start (chField w)
  else if opField w = 0b011#3 then .stop (chField w)
  else if opField w = 0b100#3 then
    .playNote (waveField w) (pitchField w) (envField w) (lengthField w)
  else if opField w = 0b101#3 then .pause
  else if opField w = 0b110#3 then decodeQuery w
  else .reserved

/-- The decoder as the opcode table numbers an instruction's bits. Every row is one 32-bit word delivered whole on the `cmd`
port (20_memory.md R56), so a shorter row has zeros above and a longer one is no command word. -/
def decodeTableWord (nbits w : Nat) : Option Instr :=
  if nbits ≤ 32 then some (decode (BitVec.ofNat 32 (w % 2 ^ nbits))) else none

/-! ## The encoder -/

/-- The word of a command, its fields laid out from bit 31 down as the formats V, N, C, Q and Z give them, reserved bits 0
(R73 to R77, R86). The reserved opcode's other bits are written 0 too. -/
def encode : Instr → Word
  | .nop => 0b000#3 ++ 0#29
  | .configure ch wave pitch env length => 0b001#3 ++ ch ++ wave ++ env ++ pitch ++ length ++ 0#6
  | .start ch => 0b010#3 ++ ch ++ 0#26
  | .stop ch => 0b011#3 ++ ch ++ 0#26
  | .playNote wave pitch env length => 0b100#3 ++ 0#3 ++ wave ++ env ++ pitch ++ length ++ 0#6
  | .pause => 0b101#3 ++ 0#29
  | .nextRr => 0b110#3 ++ 0#3 ++ 0b00#2 ++ 0#24
  | .nextMf => 0b110#3 ++ 0#3 ++ 0b01#2 ++ 0#24
  | .readPitch ch => 0b110#3 ++ ch ++ 0b10#2 ++ 0#24
  | .readLength ch => 0b110#3 ++ ch ++ 0b11#2 ++ 0#24
  | .reserved => 0b111#3 ++ 0#29

/-- The bits of a word that its command's format uses: the opcode, the sub-opcode and the operand fields. All other bits are
reserved and ignored (R73 to R77, R79). -/
def Instr.usedBits : Instr → Word
  | .configure .. => 0xFFFFFFC0#32
  | .playNote .. => 0xE3FFFFC0#32
  | .start _ => 0xFC000000#32
  | .stop _ => 0xFC000000#32
  | .readPitch _ => 0xFF000000#32
  | .readLength _ => 0xFF000000#32
  | .nextRr => 0xE3000000#32
  | .nextMf => 0xE3000000#32
  | .nop => 0xE0000000#32
  | .pause => 0xE0000000#32
  | .reserved => 0xE0000000#32

/-! ## The opcode table (R72, opcode_table.json) -/

/-- One row: a word belongs to it when the bits under `mask` are `fixed` (the table's "match"). -/
structure OpcodeRow where
  mnemonic : String
  mask     : Word
  fixed    : Word
deriving DecidableEq, Repr

/-- The word belongs to the row. -/
def OpcodeRow.accepts (r : OpcodeRow) (w : Word) : Prop := w &&& r.mask = r.fixed

/-- The eleven rows of opcode_table.json, in its order. -/
def opcodeTable : List OpcodeRow :=
  [ ⟨"NOP",         0xE0000000#32, 0x00000000#32⟩,
    ⟨"CONFIGURE",   0xE0000000#32, 0x20000000#32⟩,
    ⟨"START",       0xE0000000#32, 0x40000000#32⟩,
    ⟨"STOP",        0xE0000000#32, 0x60000000#32⟩,
    ⟨"PLAY_NOTE",   0xE0000000#32, 0x80000000#32⟩,
    ⟨"PAUSE",       0xE0000000#32, 0xA0000000#32⟩,
    ⟨"NEXT_RR",     0xE3000000#32, 0xC0000000#32⟩,
    ⟨"NEXT_MF",     0xE3000000#32, 0xC1000000#32⟩,
    ⟨"READ_PITCH",  0xE3000000#32, 0xC2000000#32⟩,
    ⟨"READ_LENGTH", 0xE3000000#32, 0xC3000000#32⟩,
    ⟨"RESERVED",    0xE0000000#32, 0xE0000000#32⟩ ]

end Sys2Proof
end

