-- ==== Sys2Proof/Config.lean ====
section
/-! DEFINITION. What is fixed for one block but not by the spec: the contents of the four ROMs and the sample rate
(00_scope.md R9, 20_memory.md R50 to R52). Each is a constant with no body, so no proof can lean on an entry. -/

namespace Sys2Proof

/-- The four ROM spaces of 20_memory.md R50, each indexed by entry from 0. The operations of the machine take a value of
this type as an argument (R9: "Open parameters the model takes as arguments"); the machine itself runs with `Config.roms`. -/
structure Roms where
  /-- WAVE: five tables of 256 signed 8-bit entries, concatenated in the order SIN, TRI, SQUARE, SAW, NOISE. -/
  wave  : Fin 1280 → Byte
  /-- ENV: four tables of 128 unsigned 8-bit entries, concatenated in id order. -/
  env   : Fin 512 → Byte
  /-- PITCH: 128 phase increments. -/
  pitch : Fin 128 → Fixed
  /-- LEN: 128 envelope increments. -/
  len   : Fin 128 → Fixed

/-- WAVE_ROM as the flat space of R50. Free: log 4, safe. -/
opaque Config.waveRom : Fin 1280 → Byte
/-- ENV_ROM as the flat space of R50. Free: log 4, safe. -/
opaque Config.envRom : Fin 512 → Byte
/-- PITCH_ROM. Free: log 4, safe. -/
opaque Config.pitchRom : Fin 128 → Fixed
/-- LEN_ROM. Free: log 4, safe. -/
opaque Config.lenRom : Fin 128 → Fixed

/-- The ROM contents of the block (20_memory.md R51: "A model treats each ROM as a constant function"). -/
def Config.roms : Roms :=
  { wave := Config.waveRom, env := Config.envRom, pitch := Config.pitchRom, len := Config.lenRom }

/-- What a read of the WAVE space at an index past its 1280 entries gives. No run reads there (20_memory.md R53); only a
state whose WSEL is 5 to 7, which 10_state.md R21 says is never stored, would. DESIGN CHOICE, log 3, safe: a free value. -/
opaque Config.absentWaveEntry : Nat → Byte

/-- F_SAMPLE, the TICK rate in Hz (00_scope.md R9, 60_exceptions.md R213). No rule reads it. Free: log 4, safe. -/
opaque Config.sampleRate : Nat

end Sys2Proof
end

