-- ==== Sys2Proof/Machine/State.lean ====
section
/-! DEFINITION. The state of the block (10_state.md), its value after RESET (70_reset_and_hazards.md R230), and the reasons
a step may stop: none that the spec gives (60_exceptions.md R210). -/

namespace Sys2Proof.Machine

/-- The registers of one voice (10_state.md R21 to R29). -/
structure Voice where
  /-- WSEL, waveform selector, legal values 0 to 4 (R21). -/
  wsel  : BitVec 3
  /-- ESEL, envelope selector (R22). -/
  esel  : BitVec 2
  /-- PACC, phase accumulator (R23). -/
  pacc  : Fixed
  /-- PINC, phase increment (R24). -/
  pinc  : Fixed
  /-- EACC, envelope accumulator; 0x8000 or more means finished (R25, R35). -/
  eacc  : Fixed
  /-- EINC, envelope increment (R26). -/
  einc  : Fixed
  /-- AMP, cached amplitude (R27). -/
  amp   : Byte
  /-- PITCH, the last raw pitch operand (R28). -/
  pitch : Index7
  /-- LEN, the last raw length operand (R29). -/
  len   : Index7
deriving DecidableEq, Repr

/-- What the input ports carry in one clock cycle (30_encoding.md R70): at most one RESET, one command and one TICK
(60_exceptions.md R215). `cmd` means something only with `cmdValid`. -/
structure PortCycle where
  rst      : Bool
  tick     : Bool
  cmdValid : Bool
  cmd      : Word
deriving DecidableEq, Repr

/-- One atomic event of the block (20_memory.md R61), or a cycle in which nothing arrives. -/
inductive Event where
  | reset
  | command (w : Word)
  | tick
  | idle
deriving DecidableEq, Repr

/-- The output ports (30_encoding.md R70, 10_state.md R36). -/
structure OutputPorts where
  out    : Byte
  resp   : Byte
  paused : BitVec 1
deriving DecidableEq, Repr

/-- The block: the Voice Bank, the global registers (10_state.md R20, R30 to R34), and the input-port samples still to come. -/
structure State where
  /-- The Voice Bank: eight voices, indexed 0 to 7 (R20). -/
  voices : Vector Voice 8
  /-- CURSOR, the voice whose turn the latest TICK was (R30). -/
  cursor : Channel
  /-- LAST, the channel started last (R31). -/
  last   : Channel
  /-- OUT, the output sample (R32). -/
  out    : Byte
  /-- RESP, the response register (R33). -/
  resp   : Byte
  /-- PAUSED (R34). -/
  paused : Bool
  /-- The environment's input-port samples, the next one first. The model's own field, no register of the block: the order
  of HOST and TIMER events is the environment's choice (00_scope.md R7), and plain data holds that choice. DESIGN CHOICE,
  log 1, safe. -/
  inputs : List PortCycle
deriving DecidableEq, Repr

/-- The reasons the block stops with a fault: none. 60_exceptions.md R210: "The block raises no exception, fault or trap". -/
inductive Fault where
deriving DecidableEq, Repr

/-- The reasons the model refuses an instruction. -/
inductive Refusal where
  /-- The instruction named has no meaning in the model yet. Raised by an arm of `exec` alone, and by none now; safe. -/
  | notModelled (mnemonic : String)
deriving DecidableEq, Repr

/-- A voice after RESET: finished, silent, everything else zero (70_reset_and_hazards.md R230). -/
def Voice.reset : Voice :=
  { wsel := 0, esel := 0, pacc := 0x0000, pinc := 0x0000, eacc := 0x8000, einc := 0x0000, amp := 0, pitch := 0, len := 0 }

/-- The block right after RESET (R230), with no input sample to come. -/
def State.reset : State :=
  { voices := Vector.replicate 8 Voice.reset
    cursor := 0
    last   := 0
    out    := 0x7F
    resp   := 0x00
    paused := false
    inputs := [] }

end Sys2Proof.Machine
end

