-- ==== Sys2Proof/Machine/Flags.lean ====
section
/-! DEFINITION. The conditions the block tests. It has no condition codes and no status flag but PAUSED (10_state.md R35):
"finished" and "eligible" are read from EACC each time. -/

namespace Sys2Proof.Machine

/-- ENV_END, the sentinel "past end of table": 128 entries of 256 units (00_scope.md R8, R16). -/
def envEnd : Fixed := 0x8000#16

/-- The NEXT_MF threshold, half the envelope (00_scope.md R8). -/
def mostFinishedThreshold : Fixed := 0x4000#16

/-- The voice is finished: EACC >= 0x8000, unsigned (R35). -/
def Voice.finished (v : Voice) : Bool := decide (envEnd ≤ v.eacc)

/-- The voice is a candidate of NEXT_MF: EACC > 0x4000, unsigned and strict (42_allocator.md R171). -/
def Voice.eligible (v : Voice) : Bool := decide (mostFinishedThreshold < v.eacc)

/-- PAUSED as the one-bit value the ports and RESP show, 0 running and 1 paused (10_state.md R34). -/
def pausedBit (paused : Bool) : BitVec 1 := BitVec.ofBool paused

end Sys2Proof.Machine
end

