-- ==== Sys2Proof/Machine/Operands.lean ====
section
/-! DEFINITION. What the operands of a command mean (40_voice_config.md R100, R101). A channel operand is the 3-bit field
itself, so it is always in 0 to 7. -/

namespace Sys2Proof.Machine

/-- resolve_wave (R101): an unrecognised waveform id, 5 to 7, falls back to 0 (SIN). -/
def resolveWave (wave : BitVec 3) : BitVec 3 := if wave ≤ 4#3 then wave else 0#3

/-- resolve_env (R101): an unrecognised envelope id, 4 to 7, falls back to table 0. -/
def resolveEnv (env : BitVec 3) : BitVec 2 := if env ≤ 3#3 then env.truncate 2 else 0#2

/-- The next channel index modulo 8: (c + 1) mod 8 (40_voice_config.md R105, 41_sample_engine.md R131, 42_allocator.md R170). -/
def nextChannel (c : Channel) : Channel := c + 1#3

end Sys2Proof.Machine
end

