-- ==== Sys2Proof/Machine/Ops.lean ====
section
/-! DEFINITION. The named operations over registers and ROMs that the meanings are written with: one accessor and one update
per register, ROM reads by entry index (00_scope.md R13), and the arithmetic notation of R11. There is no memory write
(R13) and no exception entry or return: the block raises none (60_exceptions.md R210, R217). -/

namespace Sys2Proof.Machine

/-! ## Notation (00_scope.md R11) -/

/-- sext_8: the byte read as two's complement. -/
def sext8 (b : Byte) : Int := b.toInt

/-- zext_8 of a register of at most 8 bits. -/
def zext8 {n : Nat} (x : BitVec n) : Byte := x.zeroExtend 8

/-- `a >>> n`: arithmetic right shift, rounding toward minus infinity. -/
def floorShift (a : Int) (n : Nat) : Int := a >>> n

/-- trunc_8: the low eight bits of the two's-complement form. -/
def trunc8 (a : Int) : Byte := BitVec.ofInt 8 a

/-- The integer part of a fixed-point value, its bits 15:8 (00_scope.md R15). -/
def intPart (a : Fixed) : Byte := a.extractLsb' 8 8

/-! ## Registers -/

/-- Voice `v` of the bank; three bits cannot name a voice outside it (10_state.md R20). -/
def State.voice (s : State) (v : Channel) : Voice := s.voices[v.toNat]'(v.isLt)

/-- Put a voice back at its place in the bank. -/
def State.setVoice (s : State) (v : Channel) (x : Voice) : State := { s with voices := s.voices.set v.toNat x v.isLt }

/-- Change one voice. -/
def State.modifyVoice (s : State) (v : Channel) (f : Voice → Voice) : State := s.setVoice v (f (s.voice v))

/-- Change every voice, each from its own old value. -/
def State.mapVoices (s : State) (f : Voice → Voice) : State := { s with voices := Vector.ofFn fun i => f s.voices[i] }

/-- CURSOR <- c. -/
def State.setCursor (s : State) (c : Channel) : State := { s with cursor := c }
/-- LAST <- c. -/
def State.setLast (s : State) (c : Channel) : State := { s with last := c }
/-- OUT <- b. -/
def State.setOut (s : State) (b : Byte) : State := { s with out := b }
/-- RESP <- b. -/
def State.setResp (s : State) (b : Byte) : State := { s with resp := b }
/-- PAUSED <- b. -/
def State.setPaused (s : State) (b : Bool) : State := { s with paused := b }
/-- The input-port samples still to come. -/
def State.setInputs (s : State) (l : List PortCycle) : State := { s with inputs := l }

/-- The channel indices 0 to 7, ascending. -/
def channels : List Channel := [0, 1, 2, 3, 4, 5, 6, 7]

/-- What the output ports drive: exactly OUT, RESP and PAUSED (10_state.md R36). -/
def State.outputs (s : State) : OutputPorts := { out := s.out, resp := s.resp, paused := pausedBit s.paused }

/-! ## ROM reads (00_scope.md R13, 20_memory.md R50) -/

/-- MemRead(WAVE: index, 1). Past the space's 1280 entries nothing is specified and no run reads (20_memory.md R53): a free
value, DESIGN CHOICE, log 3, safe. -/
def readWaveEntry (r : Roms) (index : Nat) : Byte :=
  if h : index < 1280 then r.wave ⟨index, h⟩ else Config.absentWaveEntry index

/-- WAVE_ROM[w][i] = sext_8(MemRead(WAVE: w*256 + i, 1)). -/
def waveSample (r : Roms) (w : BitVec 3) (i : Byte) : Int := sext8 (readWaveEntry r (w.toNat * 256 + i.toNat))

/-- ENV_ROM[e][j] = zext_8(MemRead(ENV: e*128 + j, 1)). -/
def envEntry (r : Roms) (e : BitVec 2) (j : Index7) : Byte := r.env ⟨e.toNat * 128 + j.toNat, by omega⟩

/-- PITCH_ROM[p] = zext_16(MemRead(PITCH: p, 2)). -/
def pitchEntry (r : Roms) (p : Index7) : Fixed := r.pitch p.toFin

/-- LEN_ROM[l] = zext_16(MemRead(LEN: l, 2)). -/
def lenEntry (r : Roms) (l : Index7) : Fixed := r.len l.toFin

/-! ## Byte images of the 16-bit ROMs (20_memory.md R55) -/

/-- Byte k of the little-endian image of a PITCH or LEN ROM: byte 2p is bits 7:0 of entry p, byte 2p + 1 its bits 15:8. -/
def romImageByte (rom : Fin 128 → Fixed) (k : Fin 256) : Byte :=
  let entry := rom ⟨k.val / 2, by omega⟩
  if k.val % 2 = 0 then entry.extractLsb' 0 8 else entry.extractLsb' 8 8

/-- The ROM that a little-endian image loads. -/
def romOfImage (image : Fin 256 → Byte) (p : Fin 128) : Fixed :=
  image ⟨2 * p.val + 1, by omega⟩ ++ image ⟨2 * p.val, by omega⟩

end Sys2Proof.Machine
end

