-- ==== Sys2Proof/Machine/Allocator.lean ====
section
/-! DEFINITION. The voice allocator NEXT_RR and NEXT_MF (42_allocator.md): pure queries whose only write is RESP. -/

namespace Sys2Proof.Machine

/-- One step of the ascending scan of NEXT_MF (R172). The candidate so far is `none` until an eligible voice is found; a later
eligible voice replaces it only with a strictly lower AMP, so the lowest index wins a tie (R173). -/
def scanVoice (s : State) (best : Option (Channel × Byte)) (i : Channel) : Option (Channel × Byte) :=
  if (s.voice i).eligible then
    match best with
    | none => some (i, (s.voice i).amp)
    | some (b, bestAmp) => if (s.voice i).amp < bestAmp then some (i, (s.voice i).amp) else some (b, bestAmp)
  else best

/-- The channel NEXT_MF returns: the eligible one of lowest AMP, or 0 when no voice is eligible (R172, R175). -/
def mostFinished (s : State) : Channel :=
  match channels.foldl (scanVoice s) none with
  | none => 0#3
  | some (best, _) => best

/-- NEXT_RR: RESP <- (LAST + 1) mod 8 (R170). -/
def execNextRr (s : State) : Host.Outcome State Fault Refusal := .next (s.setResp (zext8 (nextChannel s.last)))

/-- NEXT_MF (R172). -/
def execNextMf (s : State) : Host.Outcome State Fault Refusal := .next (s.setResp (zext8 (mostFinished s)))

end Sys2Proof.Machine
end

