-- ==== Sys2Proof/Machine/Control.lean ====
section
/-! DEFINITION. The control and introspection commands (43_control.md) and RESET (70_reset_and_hazards.md R230). -/

namespace Sys2Proof.Machine

/-- NOP: no state changes, RESP included (R190). -/
def execNop (s : State) : Host.Outcome State Fault Refusal := .next s

/-- PAUSE: invert PAUSED and report the new value in RESP (R191). -/
def execPause (s : State) : Host.Outcome State Fault Refusal :=
  .next ((s.setPaused (!s.paused)).setResp (zext8 (pausedBit (!s.paused))))

/-- READ_PITCH: RESP <- zext_8(PITCH[ch]) (R194). -/
def execReadPitch (ch : Channel) (s : State) : Host.Outcome State Fault Refusal := .next (s.setResp (zext8 (s.voice ch).pitch))

/-- READ_LENGTH: RESP <- zext_8(LEN[ch]) (R195). -/
def execReadLength (ch : Channel) (s : State) : Host.Outcome State Fault Refusal := .next (s.setResp (zext8 (s.voice ch).len))

/-- The reserved opcode 0b111: no effect on any state, and no exception (R80, R193). -/
def execReserved (s : State) : Host.Outcome State Fault Refusal := .next s

/-- RESET: every register to its reset value, whatever the state (R230). The port samples still to come are the
environment's and stay (DESIGN CHOICE, log 1, safe). -/
def applyReset (s : State) : State := State.reset.setInputs s.inputs

end Sys2Proof.Machine
end

