-- ==== Sys2Proof/Machine/VoiceConfig.lean ====
section
/-! DEFINITION. The voice configuration commands CONFIGURE, START, STOP and PLAY_NOTE (40_voice_config.md). Each is one
atomic step and executes whether or not the block is paused. -/

namespace Sys2Proof.Machine

/-- What CONFIGURE writes to its voice; PACC, EACC and AMP are not written (R102). -/
def Voice.arm (r : Roms) (wave : BitVec 3) (pitch : Index7) (env : BitVec 3) (length : Index7) (x : Voice) : Voice :=
  { x with
    wsel := resolveWave wave
    esel := resolveEnv env
    pinc := pitchEntry r pitch
    einc := lenEntry r length
    pitch := pitch
    len := length }

/-- What START writes to its voice; AMP is not written (R103). -/
def Voice.restart (x : Voice) : Voice := { x with pacc := 0#16, eacc := 0#16 }

/-- What STOP writes to its voice: EACC alone; AMP falls to 0 at the voice's next turn (R104, D19). -/
def Voice.silence (x : Voice) : Voice := { x with eacc := envEnd }

/-- CONFIGURE on channel `ch` with ROM contents `r` (R102). -/
def configureWith (r : Roms) (ch : Channel) (wave : BitVec 3) (pitch : Index7) (env : BitVec 3) (length : Index7)
    (s : State) : State :=
  s.modifyVoice ch (Voice.arm r wave pitch env length)

/-- START of channel `ch` (R103). -/
def startChannel (ch : Channel) (s : State) : State := (s.modifyVoice ch Voice.restart).setLast ch

/-- PLAY_NOTE with ROM contents `r`: CONFIGURE then START of channel (LAST + 1) mod 8, its index in RESP, in one step (R105). -/
def playNoteWith (r : Roms) (wave : BitVec 3) (pitch : Index7) (env : BitVec 3) (length : Index7) (s : State) : State :=
  let v := nextChannel s.last
  (startChannel v (configureWith r v wave pitch env length s)).setResp (zext8 v)

/-- CONFIGURE (R102). -/
def execConfigure (ch : Channel) (wave : BitVec 3) (pitch : Index7) (env : BitVec 3) (length : Index7) (s : State) :
    Host.Outcome State Fault Refusal :=
  .next (configureWith Config.roms ch wave pitch env length s)

/-- START (R103). -/
def execStart (ch : Channel) (s : State) : Host.Outcome State Fault Refusal := .next (startChannel ch s)

/-- STOP (R104). LAST and RESP are unchanged. -/
def execStop (ch : Channel) (s : State) : Host.Outcome State Fault Refusal := .next (s.modifyVoice ch Voice.silence)

/-- PLAY_NOTE (R105). -/
def execPlayNote (wave : BitVec 3) (pitch : Index7) (env : BitVec 3) (length : Index7) (s : State) :
    Host.Outcome State Fault Refusal :=
  .next (playNoteWith Config.roms wave pitch env length s)

end Sys2Proof.Machine
end

