-- ==== Sys2Proof/Machine/Dispatch.lean ====
section
/-! DEFINITION. The meaning of each command: one arm per constructor of Instr. -/

namespace Sys2Proof.Machine

def exec (i : Instr) (s : State) : Host.Outcome State Fault Refusal :=
  match i with
  | .nop => Sys2Proof.Machine.execNop s
  | .configure ch wave pitch env length => Sys2Proof.Machine.execConfigure ch wave pitch env length s
  | .start ch => Sys2Proof.Machine.execStart ch s
  | .stop ch => Sys2Proof.Machine.execStop ch s
  | .playNote wave pitch env length => Sys2Proof.Machine.execPlayNote wave pitch env length s
  | .pause => Sys2Proof.Machine.execPause s
  | .nextRr => Sys2Proof.Machine.execNextRr s
  | .nextMf => Sys2Proof.Machine.execNextMf s
  | .readPitch ch => Sys2Proof.Machine.execReadPitch ch s
  | .readLength ch => Sys2Proof.Machine.execReadLength ch s
  | .reserved => Sys2Proof.Machine.execReserved s

end Sys2Proof.Machine
end

