-- ==== Sys2Proof/Machine/Ports.lean ====
section
/-! DEFINITION. How the events on the input ports become atomic steps (30_encoding.md R70, 20_memory.md R61,
60_exceptions.md R215). -/

namespace Sys2Proof.Machine

/-- The first event of a cycle and what is left of the cycle after it. RESET overrides the cycle's command and TICK; a command
goes before a TICK of the same cycle (R215). -/
def PortCycle.firstEvent (c : PortCycle) : Event × Option PortCycle :=
  if c.rst then (.reset, none)
  else if c.cmdValid then (.command c.cmd, if c.tick then some { c with cmdValid := false } else none)
  else if c.tick then (.tick, none)
  else (.idle, none)

/-- Take the next event off the input ports, if any sample is left. -/
def State.takeEvent (s : State) : Option (Event × State) :=
  match s.inputs with
  | [] => none
  | c :: rest => some (c.firstEvent.1, s.setInputs (c.firstEvent.2.toList ++ rest))

/-- A cycle that presents one command word and nothing else. -/
def commandCycle (w : Word) : PortCycle := { rst := false, tick := false, cmdValid := true, cmd := w }

/-- A cycle with a TICK strobe and nothing else. -/
def tickCycle : PortCycle := { rst := false, tick := true, cmdValid := false, cmd := 0 }

end Sys2Proof.Machine
end

