-- ==== Sys2Proof/Machine/SampleEngine.lean ====
section
/-! DEFINITION. TICK, the sample engine: cursor, envelope state machine, oscillator bank, mixer and rounding unit
(41_sample_engine.md R130 to R143). TICK is a port event and has no encoding (30_encoding.md R82). -/

namespace Sys2Proof.Machine

/-- The 17-bit sum EACC + EINC of a running voice's turn, exact (R133). -/
def Voice.envelopeSum (x : Voice) : Nat := x.eacc.toNat + x.einc.toNat

/-- The envelope step of the voice whose turn it is (R132 to R134). A finished voice keeps EACC and gets AMP 0. A running
voice adds EINC, saturating at 0xFFFF; below the sentinel AMP is the envelope entry at the integer part of the sum, at or
past it AMP is 0 and no table is read. -/
def Voice.envelopeStep (r : Roms) (x : Voice) : Voice :=
  if x.finished then { x with amp := 0#8 }
  else
    let t := x.envelopeSum
    { x with
      eacc := BitVec.ofNat 16 (min t 0xFFFF)
      amp := if t < 0x8000 then envEntry r x.esel (BitVec.ofNat 7 (t >>> 8)) else 0#8 }

/-- The phase step: PACC + PINC modulo 2^16 (R137). -/
def Voice.phaseStep (x : Voice) : Voice := { x with pacc := x.pacc + x.pinc }

/-- The voice's signed sample, from the waveform table at the integer part of PACC (R138). -/
def Voice.sample (r : Roms) (x : Voice) : Int := waveSample r x.wsel (intPart x.pacc)

/-- A sample scaled by an amplitude: (s * AMP) >>> 8, rounding toward minus infinity (R139). -/
def scaleSample (sample : Int) (amp : Byte) : Int := floorShift (sample * amp.toNat) 8

/-- The voice's contribution to the mix, with its phase already stepped (R139). -/
def Voice.contribution (r : Roms) (x : Voice) : Int := scaleSample (x.sample r) x.amp

/-- The exact sum of the eight contributions (R140). -/
def mixSum (r : Roms) (s : State) : Int := (channels.map fun v => (s.voice v).contribution r).sum

/-- The output sample of a mixed sum: sum >>> 2, biased by 127, reduced modulo 256 (R141, R142). -/
def outputSample (sum : Int) : Byte := trunc8 (floorShift sum 2 + 127)

/-- Advance the cursor (R131). -/
def advanceCursor (s : State) : State := s.setCursor (nextChannel s.cursor)

/-- The envelope step of this TICK: the voice the advanced cursor names (R131). -/
def envelopeTurn (r : Roms) (s : State) : State := s.modifyVoice s.cursor (Voice.envelopeStep r)

/-- Write OUT from the mix of the voices as they stand (R138 to R142). -/
def emitSample (r : Roms) (s : State) : State := s.setOut (outputSample (mixSum r s))

/-- A TICK with ROM contents `r` (R143). Paused, it has no effect (R130). Otherwise cursor, envelope turn, phase steps, mix, in
that order (R136). All eight phases step before the sum is formed; the loop of R143 steps and adds voice by voice, which gives
the same sum, since each voice's contribution reads that voice alone (DEDUCED, log 12, safe). -/
def tickWith (r : Roms) (s : State) : State :=
  if s.paused then s
  else emitSample r ((envelopeTurn r (advanceCursor s)).mapVoices Voice.phaseStep)

/-- A TICK of the block. -/
def tick (s : State) : State := tickWith Config.roms s

end Sys2Proof.Machine
end

