-- ==== Sys2Proof/Machine/Step.lean ====
section
/-! DEFINITION. One step of the block: the next event on the input ports, applied atomically (20_memory.md R61). -/

namespace Sys2Proof.Machine

/-- One atomic step. With no input sample left, or in a cycle with no event, the block waits and nothing changes
(70_reset_and_hazards.md R232; DEDUCED, log 11, safe). -/
def step (s : State) : Host.Outcome State Fault Refusal :=
  match s.takeEvent with
  | none => .next s
  | some (.reset, s') => .next (applyReset s')
  | some (.command w, s') => exec (decode w) s'
  | some (.tick, s') => .next (tick s')
  | some (.idle, s') => .next s'

/-- `s` with one more cycle on its input ports, before all others: the HOST presents the command word `w`, its bits above
`nbits` zero (log 2). The block fetches nothing (10_state.md R38): the command port is where its next instruction comes from. -/
def State.withFetchWord (s : State) (nbits w : Nat) : State :=
  s.setInputs (commandCycle (BitVec.ofNat 32 (w % 2 ^ nbits)) :: s.inputs)

end Sys2Proof.Machine
end

