-- ==== Sys2Proof/Machine/Assembler.lean ====
section
/-! DEFINITION. The HOST's assembler (30_encoding.md R83 to R86): text to command words. It is no part of the block; it is the
spec's own way to write a command stream, and the place where an out-of-table operand is refused (60_exceptions.md R211). -/

namespace Sys2Proof.Machine

/-! ## Operands and pseudo-instructions (R84, R85) -/

/-- The channel field of an integer operand: ch mod 8, the low three bits of its two's-complement form (R84). -/
def channelOperand (ch : Int) : Channel := BitVec.ofInt 3 ch

/-- CONFIGURE with its operands placed in their fields. -/
def assembleConfigure (ch wave pitch env length : Int) : Instr :=
  .configure (channelOperand ch) (BitVec.ofInt 3 wave) (BitVec.ofInt 7 pitch) (BitVec.ofInt 3 env) (BitVec.ofInt 7 length)

/-- The commands a well-formed line stands for: NOTE is CONFIGURE then START, STOPALL is STOP 0 to STOP 7 (R85). -/
def asmCommands : AsmCmd → List Instr
  | .nop => [.nop]
  | .configure ch wave pitch env length => [assembleConfigure ch wave pitch env length]
  | .start ch => [.start (channelOperand ch)]
  | .stop ch => [.stop (channelOperand ch)]
  | .playNote wave pitch env length =>
    [.playNote (BitVec.ofInt 3 wave) (BitVec.ofInt 7 pitch) (BitVec.ofInt 3 env) (BitVec.ofInt 7 length)]
  | .pause => [.pause]
  | .nextRr => [.nextRr]
  | .nextMf => [.nextMf]
  | .readPitch ch => [.readPitch (channelOperand ch)]
  | .readLength ch => [.readLength (channelOperand ch)]
  | .note ch wave pitch env length =>
    [assembleConfigure ch wave pitch env length, .start (channelOperand ch)]
  | .stopAll => [.stop 0, .stop 1, .stop 2, .stop 3, .stop 4, .stop 5, .stop 6, .stop 7]

/-- The words of a line, or `none` where the assembler refuses its operands (R84). -/
def assembleCmd (c : AsmCmd) : Option (List Word) :=
  if c.wellFormed then some ((asmCommands c).map encode) else none

/-! ## The text of a line (R83). How integers, blanks and letter case are written is DESIGN CHOICE, log 8, safe. -/

/-- Split at every occurrence of a separator. -/
def splitAt (sep : Char) : List Char → List (List Char)
  | [] => [[]]
  | c :: rest =>
    if c = sep then [] :: splitAt sep rest
    else
      match splitAt sep rest with
      | [] => [[c]]
      | part :: parts => (c :: part) :: parts

/-- A space, a tab or the carriage return of a line's end. -/
def isBlank (c : Char) : Bool := c == ' ' || c == '\t' || c == '\r'

/-- The text without the blanks around it. -/
def trim (text : List Char) : List Char := ((text.dropWhile isBlank).reverse.dropWhile isBlank).reverse

/-- The value of a digit, 0 to 15. -/
def digitValue (c : Char) : Option Nat :=
  if '0' ≤ c ∧ c ≤ '9' then some (c.toNat - '0'.toNat)
  else if 'a' ≤ c ∧ c ≤ 'f' then some (c.toNat - 'a'.toNat + 10)
  else if 'A' ≤ c ∧ c ≤ 'F' then some (c.toNat - 'A'.toNat + 10)
  else none

/-- The number that digits of a base stand for, read on from `acc`. -/
def parseDigits (base acc : Nat) : List Char → Option Nat
  | [] => some acc
  | c :: rest =>
    match digitValue c with
    | some d => if d < base then parseDigits base (acc * base + d) rest else none
    | none => none

/-- A number of at least one digit: `0x` hexadecimal, `0b` binary, otherwise decimal (00_scope.md R10). -/
def parseNat : List Char → Option Nat
  | [] => none
  | '0' :: 'x' :: d :: rest => parseDigits 16 0 (d :: rest)
  | '0' :: 'b' :: d :: rest => parseDigits 2 0 (d :: rest)
  | text => parseDigits 10 0 text

/-- An integer operand: a number, or one after a minus sign. -/
def parseInt : List Char → Option Int
  | '-' :: rest => (parseNat rest).map fun n => -(n : Int)
  | text => (parseNat text).map fun n => (n : Int)

/-- A wave operand: one of the five names, or an integer (R83). -/
def parseWave (text : List Char) : Option Int :=
  if text = "SIN".toList then some 0
  else if text = "TRI".toList then some 1
  else if text = "SQUARE".toList then some 2
  else if text = "SAW".toList then some 3
  else if text = "NOISE".toList then some 4
  else parseInt text

/-- The operands of CONFIGURE and NOTE, in the source's order ch, wave, pitch, env, length. -/
def parseVoiceOperands (make : Int → Int → Int → Int → Int → AsmCmd) : List (List Char) → Option AsmCmd
  | [ch, wave, pitch, env, length] =>
    match parseInt ch, parseWave wave, parseInt pitch, parseInt env, parseInt length with
    | some ch, some wave, some pitch, some env, some length => some (make ch wave pitch env length)
    | _, _, _, _, _ => none
  | _ => none

/-- The operands of PLAY_NOTE: wave, pitch, env, length. -/
def parseNoteOperands : List (List Char) → Option AsmCmd
  | [wave, pitch, env, length] =>
    match parseWave wave, parseInt pitch, parseInt env, parseInt length with
    | some wave, some pitch, some env, some length => some (.playNote wave pitch env length)
    | _, _, _, _ => none
  | _ => none

/-- One channel operand. -/
def parseChannel (make : Int → AsmCmd) : List (List Char) → Option AsmCmd
  | [ch] => (parseInt ch).map make
  | _ => none

/-- No operand. -/
def parseNone (c : AsmCmd) : List (List Char) → Option AsmCmd
  | [] => some c
  | _ => none

/-- A mnemonic and its operands (R83, R85). RESUME is no line of its own (DEDUCED, log 7, safe). -/
def parseCommand (mnemonic : List Char) (operands : List (List Char)) : Option AsmCmd :=
  if mnemonic = "NOP".toList then parseNone .nop operands
  else if mnemonic = "CONFIGURE".toList then parseVoiceOperands .configure operands
  else if mnemonic = "START".toList then parseChannel .start operands
  else if mnemonic = "STOP".toList then parseChannel .stop operands
  else if mnemonic = "PLAY_NOTE".toList then parseNoteOperands operands
  else if mnemonic = "PAUSE".toList then parseNone .pause operands
  else if mnemonic = "NEXT_RR".toList then parseNone .nextRr operands
  else if mnemonic = "NEXT_MF".toList then parseNone .nextMf operands
  else if mnemonic = "READ_PITCH".toList then parseChannel .readPitch operands
  else if mnemonic = "READ_LENGTH".toList then parseChannel .readLength operands
  else if mnemonic = "NOTE".toList then parseVoiceOperands .note operands
  else if mnemonic = "STOPALL".toList then parseNone .stopAll operands
  else none

/-- The part of a line before its comment, which `;` starts (R83). -/
def withoutComment (line : List Char) : List Char := line.takeWhile (· != ';')

/-- The words of one line: none for a line that is blank but for a comment, `none` for a line that is refused. -/
def assembleLine (line : List Char) : Option (List Word) :=
  match trim (withoutComment line) with
  | [] => some []
  | text =>
    let operands := trim (text.dropWhile fun c => !isBlank c)
    match parseCommand (text.takeWhile fun c => !isBlank c) (if operands = [] then [] else (splitAt ',' operands).map trim) with
    | some c => assembleCmd c
    | none => none

/-- What the assembler answers: the words, or the number of the first line it refuses, counted from 1 (R84). -/
inductive AsmResult where
  | words (ws : List Word)
  | refusedLine (line : Nat)
deriving DecidableEq, Repr

/-- Assemble lines numbered from `n`, after the words already made. -/
def assembleLines (n : Nat) (done : List Word) : List (List Char) → AsmResult
  | [] => .words done
  | line :: rest =>
    match assembleLine line with
    | some ws => assembleLines (n + 1) (done ++ ws) rest
    | none => .refusedLine n

/-- Assemble a program text, one command per line (R83). -/
def assembleText (text : List Char) : AsmResult := assembleLines 1 [] (splitAt '\n' text)

end Sys2Proof.Machine
end

