-- ==== Sys2Proof/Safety.lean ====
section
/-! DEFINITION. The terms claims use: the value invariants of 10_state.md R40, silence (70_reset_and_hazards.md R231), and
sequences of TICKs
and of commands. -/

namespace Sys2Proof.Machine

/-- The value invariants of R40 that the types do not already give: every waveform selector is 0 to 4 and RESP is 0 to 127.
ESEL, CURSOR, LAST and PAUSED have only legal values. -/
abbrev LegalValues (s : State) : Prop := (∀ v : Channel, (s.voice v).wsel ≤ 4#3) ∧ s.resp ≤ 127#8

/-- Every voice is finished and contributes nothing (R231). -/
abbrev Silent (s : State) : Prop := ∀ v : Channel, (s.voice v).finished = true ∧ (s.voice v).amp = 0#8

/-- The state after `n` TICKs. -/
def ticks : Nat → State → State
  | 0, s => s
  | n + 1, s => ticks n (tick s)

/-- `n` steps of the block, stopping at the first that answers no next state. -/
def runSteps : Nat → State → Host.Outcome State Fault Refusal
  | 0, s => .next s
  | n + 1, s =>
    match step s with
    | .next t => runSteps n t
    | .fault r => .fault r
    | .refused r => .refused r

/-- Commands run one after the other with no event between them, stopping at the first that answers no next state. -/
def runCommands : List Instr → State → Host.Outcome State Fault Refusal
  | [], s => .next s
  | i :: rest, s =>
    match exec i s with
    | .next t => runCommands rest t
    | .fault r => .fault r
    | .refused r => .refused r

/-- The command a cycle presents, if it presents one. -/
def PortCycle.command (c : PortCycle) : Option Instr := if c.cmdValid then some (decode c.cmd) else none

/-- The commands that start a voice: the only ones that make a voice audible (R103). -/
def startsVoice : Instr → Bool
  | .start _ => true
  | .playNote .. => true
  | .nop => false
  | .configure .. => false
  | .stop _ => false
  | .pause => false
  | .nextRr => false
  | .nextMf => false
  | .readPitch _ => false
  | .readLength _ => false
  | .reserved => false

/-- The commands that write RESP (10_state.md R33). -/
def writesResp : Instr → Bool
  | .playNote .. => true
  | .pause => true
  | .nextRr => true
  | .nextMf => true
  | .readPitch _ => true
  | .readLength _ => true
  | .nop => false
  | .configure .. => false
  | .start _ => false
  | .stop _ => false
  | .reserved => false

end Sys2Proof.Machine
end

