-- ==== Sys2Proof/Certificates/Slice0/Obligations.lean ====
section
/-! DEFINITION. The statements for the provers. Each docstring names the rule of spec/ it formalises. Values of registers are
written out here, not through the meanings' own functions. -/

open Sys2Proof Sys2Proof.Machine

/-! ## Encoding (30_encoding.md) -/

/-- R81, R86: decoding a command's word gives the command back, with every operand at every value. -/
def Obligations.DecodeOfEncodeIsIdentity : Prop := ∀ i : Instr, decode (encode i) = i

/-- R79, R86: encoding a decoded word keeps exactly the bits its format uses. -/
def Obligations.EncodeOfDecodeKeepsUsedBits : Prop := ∀ w : Word, encode (decode w) = w &&& (decode w).usedBits

/-- R86: the word of a command is the OR of its shifted fields, and the rule's own example word. -/
def Obligations.WordIsOrOfShiftedFields : Prop :=
  (∀ ch wave pitch env length,
    (encode (.configure ch wave pitch env length)).toNat
      = 1 <<< 29 ||| ch.toNat <<< 26 ||| wave.toNat <<< 23 ||| env.toNat <<< 20 ||| pitch.toNat <<< 13 ||| length.toNat <<< 6) ∧
  (∀ wave pitch env length,
    (encode (.playNote wave pitch env length)).toNat
      = 4 <<< 29 ||| wave.toNat <<< 23 ||| env.toNat <<< 20 ||| pitch.toNat <<< 13 ||| length.toNat <<< 6) ∧
  (∀ ch, (encode (.start ch)).toNat = 2 <<< 29 ||| ch.toNat <<< 26) ∧
  (∀ ch, (encode (.stop ch)).toNat = 3 <<< 29 ||| ch.toNat <<< 26) ∧
  (encode .nextRr).toNat = 6 <<< 29 ||| 0 <<< 24 ∧
  (encode .nextMf).toNat = 6 <<< 29 ||| 1 <<< 24 ∧
  (∀ ch, (encode (.readPitch ch)).toNat = 6 <<< 29 ||| ch.toNat <<< 26 ||| 2 <<< 24) ∧
  (∀ ch, (encode (.readLength ch)).toNat = 6 <<< 29 ||| ch.toNat <<< 26 ||| 3 <<< 24) ∧
  (encode .nop).toNat = 0 <<< 29 ∧
  (encode .pause).toNat = 5 <<< 29 ∧
  encode (.configure 3 3 69 2 8) = 0x2DA8A200#32

/-- R72: every 32-bit word lies in exactly one row of the opcode table, the row of the command it decodes to. -/
def Obligations.EveryWordLiesInExactlyItsRow : Prop :=
  ∀ w : Word, ∃ r ∈ opcodeTable,
    r.accepts w ∧ r.mnemonic = (decode w).mnemonic ∧ ∀ r' ∈ opcodeTable, r'.accepts w → r' = r

/-- R81: the decoder as arithmetic on the word read as a number; an operand of n bits is the quotient modulo 2^n. -/
def Obligations.DecodeReadsUnsignedFields : Prop :=
  ∀ w : Word, decode w =
    match w.toNat / 2 ^ 29 with
    | 0 => .nop
    | 1 => .configure (BitVec.ofNat 3 (w.toNat / 2 ^ 26)) (BitVec.ofNat 3 (w.toNat / 2 ^ 23))
        (BitVec.ofNat 7 (w.toNat / 2 ^ 13)) (BitVec.ofNat 3 (w.toNat / 2 ^ 20)) (BitVec.ofNat 7 (w.toNat / 2 ^ 6))
    | 2 => .start (BitVec.ofNat 3 (w.toNat / 2 ^ 26))
    | 3 => .stop (BitVec.ofNat 3 (w.toNat / 2 ^ 26))
    | 4 => .playNote (BitVec.ofNat 3 (w.toNat / 2 ^ 23)) (BitVec.ofNat 7 (w.toNat / 2 ^ 13))
        (BitVec.ofNat 3 (w.toNat / 2 ^ 20)) (BitVec.ofNat 7 (w.toNat / 2 ^ 6))
    | 5 => .pause
    | 6 =>
      match w.toNat / 2 ^ 24 % 4 with
      | 0 => .nextRr
      | 1 => .nextMf
      | 2 => .readPitch (BitVec.ofNat 3 (w.toNat / 2 ^ 26))
      | _ => .readLength (BitVec.ofNat 3 (w.toNat / 2 ^ 26))
    | _ => .reserved

/-- R79: words that differ in reserved bits alone decode to the same command and run alike; an encoder writes them 0. -/
def Obligations.ReservedBitsAreIgnored : Prop :=
  (∀ w w' : Word, w &&& (decode w).usedBits = w' &&& (decode w).usedBits →
    decode w' = decode w ∧ ∀ s : State, step (s.withFetchWord 32 w'.toNat) = step (s.withFetchWord 32 w.toNat)) ∧
  (∀ i : Instr, encode i &&& ~~~i.usedBits = 0#32)

/-- R80, R193: opcode 0b111 is the only reserved one, and its words change nothing, RESP included, and raise nothing. -/
def Obligations.ReservedOpcodeHasNoEffect : Prop :=
  (∀ w : Word, decode w = .reserved ↔ w.toNat / 2 ^ 29 = 7) ∧
  (∀ (w : Word) (s : State), w.toNat / 2 ^ 29 = 7 → exec (decode w) s = .next s) ∧
  (∀ s : State, exec .reserved s = .next s)

/-- Words written out in 95_test_vectors.md 2.1 and in the command rules decode to the commands they stand for. -/
def Obligations.ExampleWordsDecode : Prop :=
  decode 0x2DA8A200#32 = .configure 3 3 69 2 8 ∧ decode 0x2E7FFFC0#32 = .configure 3 4 127 7 127 ∧
  decode 0x4C000000#32 = .start 3 ∧ decode 0x74000000#32 = .stop 5 ∧ decode 0x9C978400#32 = .playNote 1 60 1 16 ∧
  decode 0xC1000000#32 = .nextMf ∧ decode 0xCE000000#32 = .readPitch 3 ∧ decode 0xCF000000#32 = .readLength 3 ∧
  decode 0x1FFFFFFF#32 = .nop ∧ decode 0xA0000000#32 = .pause ∧ decode 0xC0000000#32 = .nextRr

/-! ## Events and steps -/

/-- R61, R71: a step with a command at the port runs the decoded command on the state with that event taken off the port; a
TICK of the same cycle stays for the next step. `withFetchWord` presents exactly that command. How the port's samples are held
is the model's choice (log 1, log 2). -/
def Obligations.StepRunsThePresentedCommand : Prop :=
  (∀ (s : State) (c : PortCycle) (rest : List PortCycle),
    s.inputs = c :: rest → c.rst = false → c.cmdValid = true →
    step s = exec (decode c.cmd) { s with inputs := if c.tick then { c with cmdValid := false } :: rest else rest }) ∧
  (∀ (s : State) (w : Nat), w < 2 ^ 32 → step (s.withFetchWord 32 w) = exec (decode (BitVec.ofNat 32 w)) s)

/-- R82, R232: a step with a TICK strobe and no command is the TICK; with no event, and with no sample left, the block waits
and no register changes (log 1, log 11). -/
def Obligations.StepTicksOrWaits : Prop :=
  (∀ (s : State) (c : PortCycle) (rest : List PortCycle),
    s.inputs = c :: rest → c.rst = false → c.cmdValid = false →
    step s = .next (if c.tick then tick { s with inputs := rest } else { s with inputs := rest })) ∧
  (∀ s : State, s.inputs = [] → step s = .next s)

/-- R215: a cycle's RESET discards its command and TICK; of a command and a TICK of one cycle the command goes first and the
TICK runs on the state it left. That RESET leaves the port cycles still to come is the model's choice (log 1), and that no other
order within a cycle is admitted is its reading of R215 (log 6). -/
def Obligations.SameCycleCommandBeforeTick : Prop :=
  ∀ (s : State) (c : PortCycle) (rest : List PortCycle), s.inputs = c :: rest →
    (c.rst = true → step s = .next { State.reset with inputs := rest }) ∧
    (c.rst = false → c.cmdValid = true → c.tick = true →
      ∃ t, exec (decode c.cmd) { s with inputs := rest } = .next t ∧ runSteps 2 s = .next (tick t))

/-- R230: RESET sets every register of every voice and every global register to its reset value, whatever the state, and the
cycle's command and TICK are discarded. That the port cycles still to come stay, `t.inputs = rest`, is the model's choice
(log 1). -/
def Obligations.ResetSetsEveryRegister : Prop :=
  ∀ (s : State) (c : PortCycle) (rest : List PortCycle), s.inputs = c :: rest → c.rst = true →
    ∃ t, step s = .next t ∧ t.inputs = rest ∧ t = { State.reset with inputs := rest } ∧
      (∀ v : Channel,
        (t.voice v).eacc = 0x8000#16 ∧ (t.voice v).amp = 0#8 ∧ (t.voice v).pacc = 0#16 ∧ (t.voice v).pinc = 0#16 ∧
        (t.voice v).einc = 0#16 ∧ (t.voice v).wsel = 0#3 ∧ (t.voice v).esel = 0#2 ∧ (t.voice v).pitch = 0#7 ∧
        (t.voice v).len = 0#7) ∧
      t.paused = false ∧ t.cursor = 0#3 ∧ t.last = 0#3 ∧ t.out = 0x7F#8 ∧ t.resp = 0#8

/-- R210: no step faults or is refused, in any state, and there is no fault to raise. -/
def Obligations.NoStepFaultsOrIsRefused : Prop := (∀ s : State, ∃ t, step s = .next t) ∧ IsEmpty Fault

/-! ## Voice configuration (40_voice_config.md) -/

/-- R102: CONFIGURE arms its voice and changes nothing else; PACC, EACC and AMP of the voice keep their values. -/
def Obligations.ConfigureArmsItsVoiceOnly : Prop :=
  ∀ (ch : Channel) (wave : BitVec 3) (pitch : Index7) (env : BitVec 3) (length : Index7) (s : State),
    ∃ t, exec (.configure ch wave pitch env length) s = .next t ∧
      (t.voice ch).wsel.toNat = (if wave.toNat ≤ 4 then wave.toNat else 0) ∧
      (t.voice ch).esel.toNat = (if env.toNat ≤ 3 then env.toNat else 0) ∧
      (t.voice ch).pinc = Config.pitchRom pitch.toFin ∧ (t.voice ch).einc = Config.lenRom length.toFin ∧
      (t.voice ch).pitch = pitch ∧ (t.voice ch).len = length ∧
      (t.voice ch).pacc = (s.voice ch).pacc ∧ (t.voice ch).eacc = (s.voice ch).eacc ∧
      (t.voice ch).amp = (s.voice ch).amp ∧
      (∀ u, u ≠ ch → t.voice u = s.voice u) ∧
      t.cursor = s.cursor ∧ t.last = s.last ∧ t.out = s.out ∧ t.resp = s.resp ∧ t.paused = s.paused ∧ t.inputs = s.inputs

/-- R102 (c): of two CONFIGUREs of one voice only the second's values stay. -/
def Obligations.SecondConfigureWins : Prop :=
  ∀ (ch : Channel) (w w' e e' : BitVec 3) (p p' l l' : Index7) (s : State),
    ∃ t, exec (.configure ch w p e l) s = .next t ∧ exec (.configure ch w' p' e' l') t = exec (.configure ch w' p' e' l') s

/-- R101: an unrecognised waveform id acts as 0 and an unrecognised envelope id as 0 in the stored selectors, a recognised one
is stored as given; the raw pitch and length operands are unaffected. -/
def Obligations.UnrecognisedSelectorsFallBack : Prop :=
  (∀ w : BitVec 3, (resolveWave w).toNat = if w.toNat ≤ 4 then w.toNat else 0) ∧
  (∀ e : BitVec 3, (resolveEnv e).toNat = if e.toNat ≤ 3 then e.toNat else 0) ∧
  (∀ (ch : Channel) (w e : BitVec 3) (p l : Index7) (s : State),
    (4 < w.toNat → exec (.configure ch w p e l) s = exec (.configure ch 0 p e l) s ∧
      exec (.playNote w p e l) s = exec (.playNote 0 p e l) s) ∧
    (3 < e.toNat → exec (.configure ch w p e l) s = exec (.configure ch w p 0 l) s ∧
      exec (.playNote w p e l) s = exec (.playNote w p 0 l) s))

/-- R103: START zeroes its voice's accumulators, records the channel in LAST, and changes nothing else, AMP included. -/
def Obligations.StartRestartsItsVoiceOnly : Prop :=
  ∀ (ch : Channel) (s : State), ∃ t, exec (.start ch) s = .next t ∧
    t.voice ch = { s.voice ch with pacc := 0#16, eacc := 0#16 } ∧ t.last = ch ∧
    (∀ u, u ≠ ch → t.voice u = s.voice u) ∧
    t.cursor = s.cursor ∧ t.out = s.out ∧ t.resp = s.resp ∧ t.paused = s.paused ∧ t.inputs = s.inputs

/-- R104: STOP puts its voice's EACC at the sentinel and changes nothing else, AMP included. -/
def Obligations.StopSetsTheSentinelOnly : Prop :=
  ∀ (ch : Channel) (s : State), ∃ t, exec (.stop ch) s = .next t ∧
    t.voice ch = { s.voice ch with eacc := 0x8000#16 } ∧
    (∀ u, u ≠ ch → t.voice u = s.voice u) ∧
    t.cursor = s.cursor ∧ t.last = s.last ∧ t.out = s.out ∧ t.resp = s.resp ∧ t.paused = s.paused ∧ t.inputs = s.inputs

/-- R105: PLAY_NOTE's registers: the voice (LAST + 1) mod 8 armed and restarted, LAST and RESP its index, nothing else
changed. -/
def Obligations.PlayNoteUsesTheNextChannel : Prop :=
  ∀ (wave : BitVec 3) (pitch : Index7) (env : BitVec 3) (length : Index7) (s : State) (v : Channel),
    v.toNat = (s.last.toNat + 1) % 8 →
    ∃ t, exec (.playNote wave pitch env length) s = .next t ∧
      (t.voice v).wsel.toNat = (if wave.toNat ≤ 4 then wave.toNat else 0) ∧
      (t.voice v).esel.toNat = (if env.toNat ≤ 3 then env.toNat else 0) ∧
      (t.voice v).pinc = Config.pitchRom pitch.toFin ∧ (t.voice v).einc = Config.lenRom length.toFin ∧
      (t.voice v).pitch = pitch ∧ (t.voice v).len = length ∧
      (t.voice v).pacc = 0#16 ∧ (t.voice v).eacc = 0#16 ∧ (t.voice v).amp = (s.voice v).amp ∧
      t.last = v ∧ t.resp.toNat = v.toNat ∧
      (∀ u, u ≠ v → t.voice u = s.voice u) ∧
      t.cursor = s.cursor ∧ t.out = s.out ∧ t.paused = s.paused ∧ t.inputs = s.inputs

/-- R105: PLAY_NOTE is CONFIGURE then START of channel (LAST + 1) mod 8 as one step, with the channel in RESP. -/
def Obligations.PlayNoteIsConfigureThenStart : Prop :=
  ∀ (wave : BitVec 3) (pitch : Index7) (env : BitVec 3) (length : Index7) (s : State) (v : Channel),
    v.toNat = (s.last.toNat + 1) % 8 →
    ∃ t, runCommands [.configure v wave pitch env length, .start v] s = .next t ∧
      exec (.playNote wave pitch env length) s = .next { t with resp := v.zeroExtend 8 }

/-- R105 (b), (d): PLAY_NOTEs in a row take the channels in turn, modulo 8: after n of them LAST has gone n further, and RESP
names it, so eight use eight different channels and the ninth the first again. -/
def Obligations.PlayNotesRotateThroughChannels : Prop :=
  ∀ (notes : List Instr) (s : State),
    (∀ i ∈ notes, ∃ wave pitch env length, i = .playNote wave pitch env length) →
    ∃ t, runCommands notes s = .next t ∧ t.last.toNat = (s.last.toNat + notes.length) % 8 ∧
      (notes ≠ [] → t.resp.toNat = t.last.toNat)

/-- R107: no voice configuration command changes CURSOR, OUT, PAUSED or any AMP, and what it does to all else is the same
whatever CURSOR and AMP hold. -/
def Obligations.VoiceCommandsNeitherReadNorWriteTheEngine : Prop :=
  ∀ (i : Instr) (s₁ s₂ : State),
    ((∃ ch w p e l, i = .configure ch w p e l) ∨ (∃ ch, i = .start ch) ∨ (∃ ch, i = .stop ch) ∨
      (∃ w p e l, i = .playNote w p e l)) →
    (∀ v, { s₁.voice v with amp := 0#8 } = { s₂.voice v with amp := 0#8 }) → s₁.last = s₂.last → s₁.resp = s₂.resp →
    ∃ t₁ t₂, exec i s₁ = .next t₁ ∧ exec i s₂ = .next t₂ ∧
      (∀ v, { t₁.voice v with amp := 0#8 } = { t₂.voice v with amp := 0#8 }) ∧ t₁.last = t₂.last ∧ t₁.resp = t₂.resp ∧
      (t₁.cursor = s₁.cursor ∧ t₁.out = s₁.out ∧ t₁.paused = s₁.paused ∧ ∀ v, (t₁.voice v).amp = (s₁.voice v).amp)

/-! ## Allocator (42_allocator.md) and control (43_control.md) -/

/-- R170: NEXT_RR answers (LAST + 1) mod 8 in RESP and changes nothing else; a PLAY_NOTE right after it uses that channel, and
after START of a channel it answers the following one. -/
def Obligations.NextRrAnswersTheFollowingChannel : Prop :=
  (∀ s : State, ∃ r : Byte, exec .nextRr s = .next { s with resp := r } ∧ r.toNat = (s.last.toNat + 1) % 8 ∧
    ∀ wave pitch env length, ∃ t, exec (.playNote wave pitch env length) { s with resp := r } = .next t ∧
      t.last.toNat = r.toNat ∧ t.resp = r) ∧
  (∀ (ch : Channel) (s : State), ∃ t, runCommands [.start ch, .nextRr] s = .next t ∧ t.resp.toNat = (ch.toNat + 1) % 8)

/-- R172, R173: NEXT_MF answers the eligible channel of lowest AMP, on a tie the lowest index, or 0 when no voice is eligible,
and changes nothing but RESP. -/
def Obligations.NextMfAnswersTheQuietestEligible : Prop :=
  ∀ s : State, ∃ (b : Channel) (r : Byte), exec .nextMf s = .next { s with resp := r } ∧ r.toNat = b.toNat ∧
    ((∃ v, 0x4000 < (s.voice v).eacc.toNat) →
      0x4000 < (s.voice b).eacc.toNat ∧
      ∀ u, 0x4000 < (s.voice u).eacc.toNat →
        (s.voice b).amp.toNat ≤ (s.voice u).amp.toNat ∧
        ((s.voice u).amp.toNat = (s.voice b).amp.toNat → b.toNat ≤ u.toNat)) ∧
    ((∀ v, (s.voice v).eacc.toNat ≤ 0x4000) → b = 0#3)

/-- R190: NOP changes nothing, and every word with opcode 0b000, the all-zero word among them, is NOP. -/
def Obligations.NopChangesNothing : Prop :=
  (∀ s : State, exec .nop s = .next s) ∧ (∀ w : Word, w.toNat / 2 ^ 29 = 0 → decode w = .nop) ∧ decode 0#32 = .nop

/-- R191: PAUSE inverts PAUSED, reports the new value in RESP, and changes nothing else. -/
def Obligations.PauseTogglesAndReports : Prop :=
  ∀ s : State, exec .pause s = .next { s with paused := !s.paused, resp := if s.paused then 0x00#8 else 0x01#8 }

/-- R192: PAUSE twice, with any number of TICKs between, returns to the running state with every register as it was at the
first PAUSE but RESP, which reports 0. -/
def Obligations.PauseTwiceResumesWhereItWas : Prop :=
  ∀ (s : State) (n : Nat), s.paused = false →
    ∃ t, exec .pause s = .next t ∧ exec .pause (ticks n t) = .next { s with resp := 0x00#8 }

/-- R191 (b), R223: every command but PAUSE does the same whether or not the block is paused. -/
def Obligations.CommandsIgnorePaused : Prop :=
  ∀ (i : Instr) (s : State) (b : Bool), i ≠ .pause →
    ∃ t, exec i s = .next t ∧ exec i { s with paused := b } = .next { t with paused := b }

/-- R194: READ_PITCH answers the raw pitch in RESP and changes nothing else: 0 after RESET, the operand of the last CONFIGURE
whatever its selectors, unchanged by START and STOP. -/
def Obligations.ReadPitchAnswersTheRawOperand : Prop :=
  (∀ (ch : Channel) (s : State), exec (.readPitch ch) s = .next { s with resp := (s.voice ch).pitch.zeroExtend 8 }) ∧
  (∀ ch, exec (.readPitch ch) State.reset = .next { State.reset with resp := 0x00#8 }) ∧
  (∀ (ch : Channel) (w e : BitVec 3) (p l : Index7) (s : State),
    ∃ t, runCommands [.configure ch w p e l, .readPitch ch] s = .next t ∧ t.resp.toNat = p.toNat) ∧
  (∀ (ch u : Channel) (s : State),
    (∃ t, exec (.start u) s = .next t ∧ (t.voice ch).pitch = (s.voice ch).pitch) ∧
    (∃ t, exec (.stop u) s = .next t ∧ (t.voice ch).pitch = (s.voice ch).pitch)) ∧
  (∀ s : State, ∃ t, runCommands [.configure 3 3 69 2 8, decode 0xCE000000#32] s = .next t ∧ t.resp = 69#8)

/-- R195: READ_LENGTH answers the raw length in RESP and changes nothing else, with READ_PITCH's corner cases. -/
def Obligations.ReadLengthAnswersTheRawOperand : Prop :=
  (∀ (ch : Channel) (s : State), exec (.readLength ch) s = .next { s with resp := (s.voice ch).len.zeroExtend 8 }) ∧
  (∀ ch, exec (.readLength ch) State.reset = .next { State.reset with resp := 0x00#8 }) ∧
  (∀ (ch : Channel) (w e : BitVec 3) (p l : Index7) (s : State),
    ∃ t, runCommands [.configure ch w p e l, .readLength ch] s = .next t ∧ t.resp.toNat = l.toNat) ∧
  (∀ (ch u : Channel) (s : State),
    (∃ t, exec (.start u) s = .next t ∧ (t.voice ch).len = (s.voice ch).len) ∧
    (∃ t, exec (.stop u) s = .next t ∧ (t.voice ch).len = (s.voice ch).len)) ∧
  (∀ s : State, ∃ t, runCommands [.configure 3 3 69 2 8, decode 0xCF000000#32] s = .next t ∧ t.resp = 8#8)

/-! ## Whole-machine rules (10_state.md) -/

/-- R27, R30, R32: no command of the HOST writes CURSOR, OUT or any AMP, and none touches the port samples. -/
def Obligations.NoCommandWritesCursorOutOrAmp : Prop :=
  ∀ (i : Instr) (s : State), ∃ t, exec i s = .next t ∧ t.cursor = s.cursor ∧ t.out = s.out ∧ t.inputs = s.inputs ∧
    ∀ v, (t.voice v).amp = (s.voice v).amp

/-- R31, R33, R34, R240: LAST is written by START and PLAY_NOTE alone, RESP by the six commands that answer, PAUSED by PAUSE
alone; a TICK writes none of the three. -/
def Obligations.OnlyTheirWritersChangeLastRespPaused : Prop :=
  (∀ (i : Instr) (s t : State), exec i s = .next t →
    (startsVoice i = false → t.last = s.last) ∧ (writesResp i = false → t.resp = s.resp) ∧
    (i ≠ .pause → t.paused = s.paused)) ∧
  (∀ s : State, (tick s).last = s.last ∧ (tick s).resp = s.resp ∧ (tick s).paused = s.paused)

/-- R223: PAUSED changes in a step only where the port shows RESET or a PAUSE command. -/
def Obligations.OnlyPauseOrResetChangesPaused : Prop :=
  ∀ s t : State, step s = .next t → t.paused ≠ s.paused →
    ∃ c rest, s.inputs = c :: rest ∧ (c.rst = true ∨ (c.cmdValid = true ∧ decode c.cmd = .pause))

/-- R40: every step keeps the value invariants. ESEL, CURSOR, LAST and PAUSED keep theirs by their types. -/
def Obligations.EveryStepKeepsTheValueInvariants : Prop := ∀ s t : State, LegalValues s → step s = .next t → LegalValues t

/-- R40, R230: the value invariants hold after RESET. -/
def Obligations.ValueInvariantsHoldAtReset : Prop := LegalValues State.reset

/-- R53: in a state that meets the value invariants a voice's sample is the WAVE entry at w*256 + i, an index inside the
space, whatever the ROM contents: no absent entry is read. -/
def Obligations.EveryWaveReadIsInRange : Prop :=
  ∀ (r : Roms) (s : State) (v : Channel), LegalValues s →
    ∃ k : Fin 1280, k.val = (s.voice v).wsel.toNat * 256 + (s.voice v).pacc.toNat / 256 ∧
      (s.voice v).sample r = (r.wave k).toInt

/-- R55: the byte image of a 16-bit ROM is little-endian, and loading it gives the ROM back. -/
def Obligations.RomImagesAreLittleEndian : Prop :=
  ∀ (rom : Fin 128 → Fixed),
    (∀ (p : Fin 128) (lo hi : Fin 256), lo.val = 2 * p.val → hi.val = 2 * p.val + 1 →
      (romImageByte rom lo).toNat = (rom p).toNat % 256 ∧ (romImageByte rom hi).toNat = (rom p).toNat / 256) ∧
    romOfImage (romImageByte rom) = rom

/-! ## The sample engine (41_sample_engine.md) -/

/-- R130: a TICK while paused changes nothing and is dropped from the port, not queued. -/
def Obligations.PausedTickIsDropped : Prop :=
  (∀ s : State, s.paused = true → tick s = s) ∧
  (∀ (s : State) (c : PortCycle) (rest : List PortCycle), s.paused = true → s.inputs = c :: rest → c.rst = false →
    c.cmdValid = false → c.tick = true → step s = .next { s with inputs := rest })

/-- R131 to R134: a running TICK advances CURSOR, and the voice it then names takes the envelope step: a finished voice keeps
EACC with AMP 0; a running one adds EINC, and below the sentinel AMP is the ENV entry at the sum's integer part, at or past it
EACC saturates and AMP is 0. No other voice's EACC or AMP changes. -/
def Obligations.TickStepsOneEnvelope : Prop :=
  ∀ (s : State) (v : Channel), s.paused = false → v.toNat = (s.cursor.toNat + 1) % 8 →
    (tick s).cursor = v ∧
    (0x8000 ≤ (s.voice v).eacc.toNat →
      ((tick s).voice v).eacc = (s.voice v).eacc ∧ ((tick s).voice v).amp = 0#8) ∧
    (∀ t, (s.voice v).eacc.toNat < 0x8000 → t = (s.voice v).eacc.toNat + (s.voice v).einc.toNat →
      ((tick s).voice v).eacc.toNat = min t 0xFFFF ∧
      (0x8000 ≤ t → ((tick s).voice v).amp = 0#8) ∧
      (t < 0x8000 → ∀ j : Fin 512, j.val = (s.voice v).esel.toNat * 128 + t / 256 →
        ((tick s).voice v).amp = Config.envRom j)) ∧
    (∀ u, u ≠ v → ((tick s).voice u).eacc = (s.voice u).eacc ∧ ((tick s).voice u).amp = (s.voice u).amp)

/-- R137: a running TICK adds PINC to PACC modulo 2^16 in every voice, whatever its envelope. -/
def Obligations.TickStepsEveryPhase : Prop :=
  ∀ (s : State) (v : Channel), s.paused = false →
    ((tick s).voice v).pacc.toNat = ((s.voice v).pacc.toNat + (s.voice v).pinc.toNat) % 2 ^ 16

/-- R136, R138: OUT after a running TICK is the mix of the phases and amplitudes that the same TICK leaves, each sample the
WAVE entry at the high byte of PACC. -/
def Obligations.TickOutputsTheMix : Prop :=
  ∀ (s : State) (idx : Channel → Fin 1280), s.paused = false → LegalValues s →
    (∀ v, (idx v).val = (s.voice v).wsel.toNat * 256 + ((tick s).voice v).pacc.toNat / 256) →
    (tick s).out = BitVec.ofInt 8 (Int.fdiv
      (([0, 1, 2, 3, 4, 5, 6, 7].map fun v : Channel =>
        Int.fdiv ((Config.waveRom (idx v)).toInt * ((tick s).voice v).amp.toNat) 256).sum) 4 + 127)

/-- R139 to R142: the mixer's arithmetic: the product's range, the contribution with its range and examples, the exact sum and its
range, the floor division by 4 with its range and its difference from truncation, and the output modulo 256 with its two wraps. -/
def Obligations.MixerArithmetic : Prop :=
  (∀ (x : Int) (a : Byte), scaleSample x a = Int.fdiv (x * a.toNat) 256) ∧
  (∀ (r : Roms) (x : Voice), -32640 ≤ x.sample r * x.amp.toNat ∧ x.sample r * x.amp.toNat ≤ 32385 ∧
    -128 ≤ x.contribution r ∧ x.contribution r ≤ 126) ∧
  (scaleSample (-1) 1 = -1 ∧ scaleSample 1 255 = 0 ∧ scaleSample (-128) 255 = -128 ∧ scaleSample 127 255 = 126) ∧
  (∀ (r : Roms) (s : State), mixSum r s = ∑ v : Fin 8, (s.voices[v]).contribution r ∧
    -1024 ≤ mixSum r s ∧ mixSum r s ≤ 1008) ∧
  (∀ sum : Int, -1024 ≤ sum → sum ≤ 1008 → ∃ mix : Int, mix = Int.fdiv sum 4 ∧ -256 ≤ mix ∧ mix ≤ 252 ∧
    ((outputSample sum).toNat : Int) = (mix + 127) % 256 ∧
    (sum < 0 → sum % 4 ≠ 0 → mix = Int.tdiv sum 4 - 1) ∧
    (256 ≤ mix + 127 → ((outputSample sum).toNat : Int) = mix + 127 - 256 ∧ (outputSample sum).toNat ≤ 123) ∧
    (mix + 127 < 0 → ((outputSample sum).toNat : Int) = mix + 127 + 256 ∧ 127 ≤ (outputSample sum).toNat))

/-- R143: what a TICK leaves: RESP, LAST, PAUSED and the port samples, and in every voice WSEL, ESEL, PINC, EINC, PITCH, LEN. -/
def Obligations.TickFrame : Prop :=
  ∀ s : State, (tick s).resp = s.resp ∧ (tick s).last = s.last ∧ (tick s).paused = s.paused ∧ (tick s).inputs = s.inputs ∧
    ∀ v, ((tick s).voice v).wsel = (s.voice v).wsel ∧ ((tick s).voice v).esel = (s.voice v).esel ∧
      ((tick s).voice v).pinc = (s.voice v).pinc ∧ ((tick s).voice v).einc = (s.voice v).einc ∧
      ((tick s).voice v).pitch = (s.voice v).pitch ∧ ((tick s).voice v).len = (s.voice v).len

/-- R144, R28, R29: what any number of TICKs leave in OUT, CURSOR and the engine's part of every voice does not depend on
PITCH, LEN, LAST or RESP. -/
def Obligations.EngineIgnoresIntrospectionState : Prop :=
  ∀ (s₁ s₂ : State) (n : Nat), s₁.paused = s₂.paused → s₁.cursor = s₂.cursor → s₁.out = s₂.out →
    (∀ v, { s₁.voice v with pitch := 0#7, len := 0#7 } = { s₂.voice v with pitch := 0#7, len := 0#7 }) →
    (ticks n s₁).out = (ticks n s₂).out ∧ (ticks n s₁).cursor = (ticks n s₂).cursor ∧
    ∀ v, { (ticks n s₁).voice v with pitch := 0#7, len := 0#7 } = { (ticks n s₂).voice v with pitch := 0#7, len := 0#7 }

/-- R145: while running, CURSOR advances by one a TICK; EACC and AMP of a voice hold until its turn, the k-th TICK with
k = ((v - CURSOR - 1) mod 8) + 1, at which CURSOR names the voice and its held EACC is applied: a finished voice gets AMP 0. -/
def Obligations.TurnSchedule : Prop :=
  ∀ (s : State) (v : Channel) (k : Nat), s.paused = false → k = (v.toNat + 7 - s.cursor.toNat) % 8 + 1 →
    (1 ≤ k ∧ k ≤ 8) ∧
    (∀ n, (ticks n s).cursor.toNat = (s.cursor.toNat + n) % 8) ∧
    (∀ j, j < k → ((ticks j s).voice v).eacc = (s.voice v).eacc ∧ ((ticks j s).voice v).amp = (s.voice v).amp) ∧
    (∀ j, 0 < j → ((ticks j s).cursor = v ↔ j % 8 = k % 8)) ∧
    (0x8000 ≤ (s.voice v).eacc.toNat → ((ticks k s).voice v).amp = 0#8) ∧
    (∀ (t : Nat) (i : Fin 512), (s.voice v).eacc.toNat < 0x8000 → t = (s.voice v).eacc.toNat + (s.voice v).einc.toNat →
      ((ticks k s).voice v).eacc.toNat = min t 0xFFFF ∧
      (0x8000 ≤ t → ((ticks k s).voice v).amp = 0#8) ∧
      (t < 0x8000 → i.val = (s.voice v).esel.toNat * 128 + t / 256 → ((ticks k s).voice v).amp = Config.envRom i))

/-- R146: a voice with EACC 0 and EINC > 0 runs for exactly n = ceil(32768 / EINC) turns: at turn m < n EACC is m * EINC and AMP
the ENV entry at its integer part, before turn n it is running, and from turn n on it is finished, with AMP 0 at each turn.
Turn m is TICK 8 (m - 1) + k, k as in R145; index 0 is read only when EINC < 256. -/
def Obligations.EnvelopeTerminates : Prop :=
  ∀ (s : State) (v : Channel) (k e n : Nat), s.paused = false → k = (v.toNat + 7 - s.cursor.toNat) % 8 + 1 →
    (s.voice v).eacc = 0#16 → e = (s.voice v).einc.toNat → 0 < e → n = (32768 + e - 1) / e →
    (∀ m, 1 ≤ m → m < n →
      ((ticks (8 * (m - 1) + k) s).voice v).eacc.toNat = m * e ∧
      (∀ j : Fin 512, j.val = (s.voice v).esel.toNat * 128 + m * e / 256 →
        ((ticks (8 * (m - 1) + k) s).voice v).amp = Config.envRom j) ∧
      (m * e / 256 = 0 → e < 256)) ∧
    (∀ j, j < 8 * (n - 1) + k → ((ticks j s).voice v).eacc.toNat < 0x8000) ∧
    (∀ j, 8 * (n - 1) + k ≤ j → 0x8000 ≤ ((ticks j s).voice v).eacc.toNat ∧ ((ticks j s).voice v).amp = 0#8)

/-- R135: a running voice with EINC 0 runs for ever: no TICK changes its EACC, and from its first turn on, TICK k with k as in
R145, AMP is the ENV entry at EACC's integer part and stays it. -/
def Obligations.EnvelopeWithoutIncrementRunsForever : Prop :=
  ∀ (s : State) (v : Channel) (k : Nat) (j : Fin 512), s.paused = false → k = (v.toNat + 7 - s.cursor.toNat) % 8 + 1 →
    (s.voice v).eacc.toNat < 0x8000 → (s.voice v).einc = 0#16 →
    j.val = (s.voice v).esel.toNat * 128 + (s.voice v).eacc.toNat / 256 →
    ∀ n, ((ticks n s).voice v).eacc = (s.voice v).eacc ∧
      (n < k → ((ticks n s).voice v).amp = (s.voice v).amp) ∧
      (k ≤ n → ((ticks n s).voice v).amp = Config.envRom j)

/-- R147: after n TICKs PACC is PACC + n * PINC modulo 2^16, so the waveform index depends on PACC and PINC alone, has period
2^16 / gcd(PINC, 2^16), and for PINC = 256 from PACC = 0 runs through n mod 256. -/
def Obligations.PhaseCycle : Prop :=
  ∀ (s : State) (v : Channel), s.paused = false →
    (∀ n, ((ticks n s).voice v).pacc.toNat = ((s.voice v).pacc.toNat + n * (s.voice v).pinc.toNat) % 2 ^ 16) ∧
    ((s.voice v).pinc = 256#16 → (s.voice v).pacc = 0#16 → ∀ n, ((ticks n s).voice v).pacc.toNat / 256 = n % 256) ∧
    ((s.voice v).pinc ≠ 0#16 → ∀ n, ((ticks (n + 2 ^ 16 / Nat.gcd (s.voice v).pinc.toNat (2 ^ 16)) s).voice v).pacc
      = ((ticks n s).voice v).pacc)

/-! ## Reset, hazards and the HOST's idioms (70_reset_and_hazards.md, 30_encoding.md) -/

/-- R231: with every voice finished and silent a running TICK gives OUT = 127 and leaves them so; after RESET every number of
TICKs does. -/
def Obligations.SilentBlockOutputsMidScale : Prop :=
  (∀ s : State, Silent s → s.paused = false → (tick s).out = 127#8 ∧ Silent (tick s)) ∧
  (∀ n, Silent (ticks n State.reset) ∧ (ticks n State.reset).out = 127#8)

/-- R106, R231: a silent block at mid-scale stays so through every step that runs no START and no PLAY_NOTE: CONFIGURE alone
never makes a voice audible. -/
def Obligations.OnlyStartingAVoiceEndsSilence : Prop :=
  ∀ s t : State, Silent s → s.out = 127#8 → step s = .next t →
    (∀ c rest, s.inputs = c :: rest → c.rst = false → c.cmdValid = true → startsVoice (decode c.cmd) = false) →
    Silent t ∧ t.out = 127#8

/-- R236: after START of a voice its old AMP holds for k - 1 TICKs while its waveform restarts, and the k-th TICK applies the
first envelope value, ENV at EINC's integer part, or 0 when EINC is 0x8000 or more. -/
def Obligations.StartTakesEffectAtTheNextTurn : Prop :=
  ∀ (s : State) (v : Channel) (k : Nat), s.paused = false → k = (v.toNat + 7 - s.cursor.toNat) % 8 + 1 →
    ∃ t, exec (.start v) s = .next t ∧
      (∀ j, j < k → ((ticks j t).voice v).amp = (s.voice v).amp ∧
        ((ticks j t).voice v).pacc.toNat = j * (s.voice v).pinc.toNat % 2 ^ 16) ∧
      (∀ i : Fin 512, i.val = (s.voice v).esel.toNat * 128 + (s.voice v).einc.toNat / 256 →
        (s.voice v).einc.toNat < 0x8000 → ((ticks k t).voice v).amp = Config.envRom i) ∧
      (0x8000 ≤ (s.voice v).einc.toNat → ((ticks k t).voice v).amp = 0#8)

/-- R237: STOP sets EACC of its voice at once; its AMP holds for k - 1 TICKs, 1 to 8 for k, and is 0 from the k-th on, where its
contribution is 0. -/
def Obligations.StopTakesEffectAtTheNextTurn : Prop :=
  ∀ (s : State) (v : Channel) (k : Nat), s.paused = false → k = (v.toNat + 7 - s.cursor.toNat) % 8 + 1 →
    (1 ≤ k ∧ k ≤ 8) ∧ ∃ t, exec (.stop v) s = .next t ∧ (t.voice v).eacc = 0x8000#16 ∧
      (∀ j, j < k → ((ticks j t).voice v).amp = (s.voice v).amp) ∧
      (∀ j, k ≤ j → ((ticks j t).voice v).amp = 0#8 ∧ ((ticks j t).voice v).contribution Config.roms = 0)

/-- R239: commands between two PAUSEs, issued while running, run as if no TICK came: whatever TICKs the cycles between carry,
the block ends where the commands alone take it. -/
def Obligations.PauseBracketDropsEveryTick : Prop :=
  ∀ (s : State) (cs : List PortCycle), s.paused = false →
    (∀ c ∈ cs, c.rst = false ∧ (c.cmdValid = true → decode c.cmd ≠ .pause)) →
    ∃ (n : Nat) (t : State),
      runCommands (.pause :: (cs.filterMap PortCycle.command ++ [.pause])) { s with inputs := [] } = .next t ∧
      runSteps n
        { s with inputs := commandCycle 0xA0000000#32 :: (cs ++ [commandCycle 0xA0000000#32]) } = .next t

/-- R84: the assembler encodes ch mod 8 for any integer ch, and pitch, length, wave and env as given inside their ranges; it
refuses the line outside them, ids the block does not recognise being inside. -/
def Obligations.AssemblerMasksChannelsAndRefusesTheRest : Prop :=
  ∀ ch wave pitch env length : Int,
    ((0 ≤ pitch ∧ pitch ≤ 127) ∧ (0 ≤ length ∧ length ≤ 127) ∧ (0 ≤ wave ∧ wave ≤ 7) ∧ (0 ≤ env ∧ env ≤ 7) →
      ∃ c w p e l, (c.toNat : Int) = ch % 8 ∧ (w.toNat : Int) = wave ∧ (p.toNat : Int) = pitch ∧ (e.toNat : Int) = env ∧
        (l.toNat : Int) = length ∧
        assembleCmd (.configure ch wave pitch env length) = some [encode (.configure c w p e l)] ∧
        assembleCmd (.playNote wave pitch env length) = some [encode (.playNote w p e l)]) ∧
    (¬((0 ≤ pitch ∧ pitch ≤ 127) ∧ (0 ≤ length ∧ length ≤ 127) ∧ (0 ≤ wave ∧ wave ≤ 7) ∧ (0 ≤ env ∧ env ≤ 7)) →
      assembleCmd (.configure ch wave pitch env length) = none ∧ assembleCmd (.playNote wave pitch env length) = none) ∧
    (∃ c : Channel, (c.toNat : Int) = ch % 8 ∧ assembleCmd (.start ch) = some [encode (.start c)] ∧
      assembleCmd (.stop ch) = some [encode (.stop c)] ∧ assembleCmd (.readPitch ch) = some [encode (.readPitch c)] ∧
      assembleCmd (.readLength ch) = some [encode (.readLength c)])

/-- R85: NOTE is CONFIGURE's word followed by START's, STOPALL the eight STOP words in order, and RESUME has no
expansion: that the assembler refuses such a line is the model's reading (log 7). -/
def Obligations.PseudoInstructionsExpand : Prop :=
  (∀ (ch wave pitch env length : Int) (ws : List Word), assembleCmd (.configure ch wave pitch env length) = some ws →
    ∃ start : Word, assembleCmd (.start ch) = some [start] ∧
      assembleCmd (.note ch wave pitch env length) = some (ws ++ [start]) ∧ ws.length = 1) ∧
  assembleCmd .stopAll
    = some [0x60000000#32, 0x64000000#32, 0x68000000#32, 0x6C000000#32, 0x70000000#32, 0x74000000#32, 0x78000000#32,
        0x7C000000#32] ∧
  assembleText "RESUME".toList = .refusedLine 1
end

