-- ==== Sys2Proof/Laws/State.lean ====
section
/-! SUPPORT. One lemma per field per register update, and reads of the Voice Bank after an update, so that no proof unfolds
a record update or the bank's vector. -/

namespace Sys2Proof.Machine

/-! ## setCursor -/

@[simp] theorem setCursor_cursor (s : State) (c : Channel) : (s.setCursor c).cursor = c := rfl
@[simp] theorem setCursor_last (s : State) (c : Channel) : (s.setCursor c).last = s.last := rfl
@[simp] theorem setCursor_out (s : State) (c : Channel) : (s.setCursor c).out = s.out := rfl
@[simp] theorem setCursor_resp (s : State) (c : Channel) : (s.setCursor c).resp = s.resp := rfl
@[simp] theorem setCursor_paused (s : State) (c : Channel) : (s.setCursor c).paused = s.paused := rfl
@[simp] theorem setCursor_inputs (s : State) (c : Channel) : (s.setCursor c).inputs = s.inputs := rfl
@[simp] theorem setCursor_voice (s : State) (c : Channel) (u : Channel) : (s.setCursor c).voice u = s.voice u := rfl

/-! ## setLast -/

@[simp] theorem setLast_cursor (s : State) (c : Channel) : (s.setLast c).cursor = s.cursor := rfl
@[simp] theorem setLast_last (s : State) (c : Channel) : (s.setLast c).last = c := rfl
@[simp] theorem setLast_out (s : State) (c : Channel) : (s.setLast c).out = s.out := rfl
@[simp] theorem setLast_resp (s : State) (c : Channel) : (s.setLast c).resp = s.resp := rfl
@[simp] theorem setLast_paused (s : State) (c : Channel) : (s.setLast c).paused = s.paused := rfl
@[simp] theorem setLast_inputs (s : State) (c : Channel) : (s.setLast c).inputs = s.inputs := rfl
@[simp] theorem setLast_voice (s : State) (c : Channel) (u : Channel) : (s.setLast c).voice u = s.voice u := rfl

/-! ## setOut -/

@[simp] theorem setOut_cursor (s : State) (b : Byte) : (s.setOut b).cursor = s.cursor := rfl
@[simp] theorem setOut_last (s : State) (b : Byte) : (s.setOut b).last = s.last := rfl
@[simp] theorem setOut_out (s : State) (b : Byte) : (s.setOut b).out = b := rfl
@[simp] theorem setOut_resp (s : State) (b : Byte) : (s.setOut b).resp = s.resp := rfl
@[simp] theorem setOut_paused (s : State) (b : Byte) : (s.setOut b).paused = s.paused := rfl
@[simp] theorem setOut_inputs (s : State) (b : Byte) : (s.setOut b).inputs = s.inputs := rfl
@[simp] theorem setOut_voice (s : State) (b : Byte) (u : Channel) : (s.setOut b).voice u = s.voice u := rfl

/-! ## setResp -/

@[simp] theorem setResp_cursor (s : State) (b : Byte) : (s.setResp b).cursor = s.cursor := rfl
@[simp] theorem setResp_last (s : State) (b : Byte) : (s.setResp b).last = s.last := rfl
@[simp] theorem setResp_out (s : State) (b : Byte) : (s.setResp b).out = s.out := rfl
@[simp] theorem setResp_resp (s : State) (b : Byte) : (s.setResp b).resp = b := rfl
@[simp] theorem setResp_paused (s : State) (b : Byte) : (s.setResp b).paused = s.paused := rfl
@[simp] theorem setResp_inputs (s : State) (b : Byte) : (s.setResp b).inputs = s.inputs := rfl
@[simp] theorem setResp_voice (s : State) (b : Byte) (u : Channel) : (s.setResp b).voice u = s.voice u := rfl

/-! ## setPaused -/

@[simp] theorem setPaused_cursor (s : State) (b : Bool) : (s.setPaused b).cursor = s.cursor := rfl
@[simp] theorem setPaused_last (s : State) (b : Bool) : (s.setPaused b).last = s.last := rfl
@[simp] theorem setPaused_out (s : State) (b : Bool) : (s.setPaused b).out = s.out := rfl
@[simp] theorem setPaused_resp (s : State) (b : Bool) : (s.setPaused b).resp = s.resp := rfl
@[simp] theorem setPaused_paused (s : State) (b : Bool) : (s.setPaused b).paused = b := rfl
@[simp] theorem setPaused_inputs (s : State) (b : Bool) : (s.setPaused b).inputs = s.inputs := rfl
@[simp] theorem setPaused_voice (s : State) (b : Bool) (u : Channel) : (s.setPaused b).voice u = s.voice u := rfl

/-! ## setInputs -/

@[simp] theorem setInputs_cursor (s : State) (l : List PortCycle) : (s.setInputs l).cursor = s.cursor := rfl
@[simp] theorem setInputs_last (s : State) (l : List PortCycle) : (s.setInputs l).last = s.last := rfl
@[simp] theorem setInputs_out (s : State) (l : List PortCycle) : (s.setInputs l).out = s.out := rfl
@[simp] theorem setInputs_resp (s : State) (l : List PortCycle) : (s.setInputs l).resp = s.resp := rfl
@[simp] theorem setInputs_paused (s : State) (l : List PortCycle) : (s.setInputs l).paused = s.paused := rfl
@[simp] theorem setInputs_inputs (s : State) (l : List PortCycle) : (s.setInputs l).inputs = l := rfl
@[simp] theorem setInputs_voice (s : State) (l : List PortCycle) (u : Channel) : (s.setInputs l).voice u = s.voice u := rfl

/-! ## setVoice -/

@[simp] theorem setVoice_cursor (s : State) (v : Channel) (x : Voice) : (s.setVoice v x).cursor = s.cursor := rfl
@[simp] theorem setVoice_last (s : State) (v : Channel) (x : Voice) : (s.setVoice v x).last = s.last := rfl
@[simp] theorem setVoice_out (s : State) (v : Channel) (x : Voice) : (s.setVoice v x).out = s.out := rfl
@[simp] theorem setVoice_resp (s : State) (v : Channel) (x : Voice) : (s.setVoice v x).resp = s.resp := rfl
@[simp] theorem setVoice_paused (s : State) (v : Channel) (x : Voice) : (s.setVoice v x).paused = s.paused := rfl
@[simp] theorem setVoice_inputs (s : State) (v : Channel) (x : Voice) : (s.setVoice v x).inputs = s.inputs := rfl

/-! ## modifyVoice -/

@[simp] theorem modifyVoice_cursor (s : State) (v : Channel) (f : Voice → Voice) : (s.modifyVoice v f).cursor = s.cursor := rfl
@[simp] theorem modifyVoice_last (s : State) (v : Channel) (f : Voice → Voice) : (s.modifyVoice v f).last = s.last := rfl
@[simp] theorem modifyVoice_out (s : State) (v : Channel) (f : Voice → Voice) : (s.modifyVoice v f).out = s.out := rfl
@[simp] theorem modifyVoice_resp (s : State) (v : Channel) (f : Voice → Voice) : (s.modifyVoice v f).resp = s.resp := rfl
@[simp] theorem modifyVoice_paused (s : State) (v : Channel) (f : Voice → Voice) : (s.modifyVoice v f).paused = s.paused := rfl
@[simp] theorem modifyVoice_inputs (s : State) (v : Channel) (f : Voice → Voice) : (s.modifyVoice v f).inputs = s.inputs := rfl

/-! ## mapVoices -/

@[simp] theorem mapVoices_cursor (s : State) (f : Voice → Voice) : (s.mapVoices f).cursor = s.cursor := rfl
@[simp] theorem mapVoices_last (s : State) (f : Voice → Voice) : (s.mapVoices f).last = s.last := rfl
@[simp] theorem mapVoices_out (s : State) (f : Voice → Voice) : (s.mapVoices f).out = s.out := rfl
@[simp] theorem mapVoices_resp (s : State) (f : Voice → Voice) : (s.mapVoices f).resp = s.resp := rfl
@[simp] theorem mapVoices_paused (s : State) (f : Voice → Voice) : (s.mapVoices f).paused = s.paused := rfl
@[simp] theorem mapVoices_inputs (s : State) (f : Voice → Voice) : (s.mapVoices f).inputs = s.inputs := rfl

/-! ## Reads of the Voice Bank -/

@[simp] theorem setVoice_voice_self (s : State) (v : Channel) (x : Voice) : (s.setVoice v x).voice v = x := by
  simp [State.voice, State.setVoice]

theorem setVoice_voice_of_ne (s : State) {u v : Channel} (x : Voice) (h : u ≠ v) :
    (s.setVoice v x).voice u = s.voice u := by
  have h' : v.toNat ≠ u.toNat := fun e => h (BitVec.eq_of_toNat_eq e.symm)
  simp [State.voice, State.setVoice, h']

@[simp] theorem modifyVoice_voice_self (s : State) (v : Channel) (f : Voice → Voice) :
    (s.modifyVoice v f).voice v = f (s.voice v) := by
  simp [State.modifyVoice]

theorem modifyVoice_voice_of_ne (s : State) {u v : Channel} (f : Voice → Voice) (h : u ≠ v) :
    (s.modifyVoice v f).voice u = s.voice u :=
  setVoice_voice_of_ne s _ h

theorem modifyVoice_voice (s : State) (u v : Channel) (f : Voice → Voice) :
    (s.modifyVoice v f).voice u = if u = v then f (s.voice v) else s.voice u := by
  split
  · next h => rw [h, modifyVoice_voice_self]
  · next h => exact modifyVoice_voice_of_ne s f h

@[simp] theorem mapVoices_voice (s : State) (f : Voice → Voice) (v : Channel) :
    (s.mapVoices f).voice v = f (s.voice v) := by
  simp [State.voice, State.mapVoices]

@[simp] theorem reset_voice (v : Channel) : State.reset.voice v = Voice.reset := by
  simp [State.voice, State.reset]

/-- Two states with the same voices and the same global registers and inputs are equal. -/
theorem state_ext {s t : State} (hv : ∀ v, s.voice v = t.voice v) (hc : s.cursor = t.cursor) (hl : s.last = t.last)
    (ho : s.out = t.out) (hr : s.resp = t.resp) (hp : s.paused = t.paused) (hi : s.inputs = t.inputs) : s = t := by
  have h : s.voices = t.voices := by
    apply Vector.ext
    intro i hi8
    have := hv (BitVec.ofNat 3 i)
    simpa [State.voice, Nat.mod_eq_of_lt hi8] using this
  cases s
  cases t
  simp_all

/-- Every channel is listed once by `channels`. -/
@[simp] theorem mem_channels (v : Channel) : v ∈ channels := by
  revert v
  decide

end Sys2Proof.Machine
end

