-- ==== Sys2Proof/Laws/Voice.lean ====
section
/-! SUPPORT. What each per-voice operation does to each register of a voice. -/

namespace Sys2Proof.Machine

/-! ## CONFIGURE's part (R102) -/

section arm
variable (r : Roms) (w : BitVec 3) (p : Index7) (e : BitVec 3) (l : Index7) (x : Voice)

@[simp] theorem arm_wsel : (x.arm r w p e l).wsel = resolveWave w := rfl
@[simp] theorem arm_esel : (x.arm r w p e l).esel = resolveEnv e := rfl
@[simp] theorem arm_pacc : (x.arm r w p e l).pacc = x.pacc := rfl
@[simp] theorem arm_pinc : (x.arm r w p e l).pinc = pitchEntry r p := rfl
@[simp] theorem arm_eacc : (x.arm r w p e l).eacc = x.eacc := rfl
@[simp] theorem arm_einc : (x.arm r w p e l).einc = lenEntry r l := rfl
@[simp] theorem arm_amp : (x.arm r w p e l).amp = x.amp := rfl
@[simp] theorem arm_pitch : (x.arm r w p e l).pitch = p := rfl
@[simp] theorem arm_len : (x.arm r w p e l).len = l := rfl

end arm

/-! ## START's and STOP's part (R103, R104) -/

@[simp] theorem restart_wsel (x : Voice) : x.restart.wsel = x.wsel := rfl
@[simp] theorem restart_esel (x : Voice) : x.restart.esel = x.esel := rfl
@[simp] theorem restart_pacc (x : Voice) : x.restart.pacc = 0#16 := rfl
@[simp] theorem restart_pinc (x : Voice) : x.restart.pinc = x.pinc := rfl
@[simp] theorem restart_eacc (x : Voice) : x.restart.eacc = 0#16 := rfl
@[simp] theorem restart_einc (x : Voice) : x.restart.einc = x.einc := rfl
@[simp] theorem restart_amp (x : Voice) : x.restart.amp = x.amp := rfl
@[simp] theorem restart_pitch (x : Voice) : x.restart.pitch = x.pitch := rfl
@[simp] theorem restart_len (x : Voice) : x.restart.len = x.len := rfl

@[simp] theorem silence_wsel (x : Voice) : x.silence.wsel = x.wsel := rfl
@[simp] theorem silence_esel (x : Voice) : x.silence.esel = x.esel := rfl
@[simp] theorem silence_pacc (x : Voice) : x.silence.pacc = x.pacc := rfl
@[simp] theorem silence_pinc (x : Voice) : x.silence.pinc = x.pinc := rfl
@[simp] theorem silence_eacc (x : Voice) : x.silence.eacc = envEnd := rfl
@[simp] theorem silence_einc (x : Voice) : x.silence.einc = x.einc := rfl
@[simp] theorem silence_amp (x : Voice) : x.silence.amp = x.amp := rfl
@[simp] theorem silence_pitch (x : Voice) : x.silence.pitch = x.pitch := rfl
@[simp] theorem silence_len (x : Voice) : x.silence.len = x.len := rfl

/-! ## The phase step (R137) -/

@[simp] theorem phaseStep_wsel (x : Voice) : x.phaseStep.wsel = x.wsel := rfl
@[simp] theorem phaseStep_esel (x : Voice) : x.phaseStep.esel = x.esel := rfl
@[simp] theorem phaseStep_pacc (x : Voice) : x.phaseStep.pacc = x.pacc + x.pinc := rfl
@[simp] theorem phaseStep_pinc (x : Voice) : x.phaseStep.pinc = x.pinc := rfl
@[simp] theorem phaseStep_eacc (x : Voice) : x.phaseStep.eacc = x.eacc := rfl
@[simp] theorem phaseStep_einc (x : Voice) : x.phaseStep.einc = x.einc := rfl
@[simp] theorem phaseStep_amp (x : Voice) : x.phaseStep.amp = x.amp := rfl
@[simp] theorem phaseStep_pitch (x : Voice) : x.phaseStep.pitch = x.pitch := rfl
@[simp] theorem phaseStep_len (x : Voice) : x.phaseStep.len = x.len := rfl

/-! ## The envelope step (R132 to R134) -/

/-- "Finished" as a comparison of numbers (R35). -/
theorem finished_iff (x : Voice) : x.finished = true ↔ 0x8000 ≤ x.eacc.toNat := by
  simp [Voice.finished, envEnd, BitVec.le_def]

/-- "Eligible" as a comparison of numbers (R171). -/
theorem eligible_iff (x : Voice) : x.eligible = true ↔ 0x4000 < x.eacc.toNat := by
  simp [Voice.eligible, mostFinishedThreshold, BitVec.lt_def]

/-- The finished branch (R132). -/
theorem envelopeStep_of_finished (r : Roms) (x : Voice) (h : 0x8000 ≤ x.eacc.toNat) :
    x.envelopeStep r = { x with amp := 0#8 } := by
  rw [Voice.envelopeStep, if_pos ((finished_iff x).2 h)]

/-- The running branch up to the sentinel: add, and read the table at the new integer part (R133, R134). -/
theorem envelopeStep_of_running (r : Roms) (x : Voice) (h : x.envelopeSum < 0x8000) :
    x.envelopeStep r = { x with
      eacc := x.eacc + x.einc
      amp := envEntry r x.esel (BitVec.ofNat 7 (x.envelopeSum >>> 8)) } := by
  have hsum : x.envelopeSum = x.eacc.toNat + x.einc.toNat := rfl
  have hf : ¬x.finished = true := fun hf => by have := (finished_iff x).1 hf; omega
  have hmin : min x.envelopeSum 0xFFFF = x.envelopeSum := by omega
  have hacc : BitVec.ofNat 16 x.envelopeSum = x.eacc + x.einc := BitVec.eq_of_toNat_eq (by simp [hsum])
  rw [Voice.envelopeStep, if_neg hf]
  simp only [if_pos h, hmin, hacc]

/-- The running branch at the crossing turn: saturate, amplitude 0, no table read (R133). -/
theorem envelopeStep_of_crossing (r : Roms) (x : Voice) (hrun : x.eacc.toNat < 0x8000) (h : 0x8000 ≤ x.envelopeSum) :
    x.envelopeStep r = { x with eacc := BitVec.ofNat 16 (min x.envelopeSum 0xFFFF), amp := 0#8 } := by
  have hf : ¬x.finished = true := fun hf => by have := (finished_iff x).1 hf; omega
  rw [Voice.envelopeStep, if_neg hf]
  simp only [if_neg (Nat.not_lt.2 h)]

section envelope
variable (r : Roms) (x : Voice)

@[simp] theorem envelopeStep_wsel : (x.envelopeStep r).wsel = x.wsel := by unfold Voice.envelopeStep; split <;> rfl
@[simp] theorem envelopeStep_esel : (x.envelopeStep r).esel = x.esel := by unfold Voice.envelopeStep; split <;> rfl
@[simp] theorem envelopeStep_pacc : (x.envelopeStep r).pacc = x.pacc := by unfold Voice.envelopeStep; split <;> rfl
@[simp] theorem envelopeStep_pinc : (x.envelopeStep r).pinc = x.pinc := by unfold Voice.envelopeStep; split <;> rfl
@[simp] theorem envelopeStep_einc : (x.envelopeStep r).einc = x.einc := by unfold Voice.envelopeStep; split <;> rfl
@[simp] theorem envelopeStep_pitch : (x.envelopeStep r).pitch = x.pitch := by unfold Voice.envelopeStep; split <;> rfl
@[simp] theorem envelopeStep_len : (x.envelopeStep r).len = x.len := by unfold Voice.envelopeStep; split <;> rfl

end envelope

end Sys2Proof.Machine
end

