-- ==== Sys2Proof/Laws/Machine.lean ====
section
/-! SUPPORT. What one TICK, one command and one step can do, each said once. -/

namespace Sys2Proof.Machine

/-! ## TICK -/

/-- A TICK while paused (R130). -/
theorem tick_of_paused {s : State} (h : s.paused = true) : tick s = s := by
  simp [tick, tickWith, h]

/-- A voice after a running TICK: its envelope step if the turn is its own, then its phase step (R131, R136, R137). -/
theorem tick_voice {s : State} (h : s.paused = false) (v : Channel) :
    (tick s).voice v =
      (if v = s.cursor + 1#3 then (s.voice v).envelopeStep Config.roms else s.voice v).phaseStep := by
  have hv : (tick s).voice v
      = ((envelopeTurn Config.roms (advanceCursor s)).voice v).phaseStep := by
    simp only [tick, tickWith, h, Bool.false_eq_true, if_false, emitSample, setOut_voice, mapVoices_voice]
  rw [hv, envelopeTurn, modifyVoice_voice]
  by_cases hc : v = s.cursor + 1#3
  · simp [hc, advanceCursor, nextChannel]
  · simp [hc, advanceCursor, nextChannel]

/-- The cursor after a running TICK (R131). -/
theorem tick_cursor {s : State} (h : s.paused = false) : (tick s).cursor = s.cursor + 1#3 := by
  simp [tick, tickWith, h, emitSample, envelopeTurn, advanceCursor, nextChannel]

/-- OUT after a running TICK: the mix of the voices as that TICK leaves them (R136, R138 to R142). -/
theorem tick_out {s : State} (h : s.paused = false) :
    (tick s).out = outputSample (mixSum Config.roms (tick s)) := by
  simp only [tick, tickWith, h, Bool.false_eq_true, if_false, emitSample, setOut_out]
  rfl

/-! What no TICK writes (R143). -/

@[simp] theorem tick_last (s : State) : (tick s).last = s.last := by
  unfold tick tickWith; split <;> simp [emitSample, envelopeTurn, advanceCursor]
@[simp] theorem tick_resp (s : State) : (tick s).resp = s.resp := by
  unfold tick tickWith; split <;> simp [emitSample, envelopeTurn, advanceCursor]
@[simp] theorem tick_paused (s : State) : (tick s).paused = s.paused := by
  unfold tick tickWith; split <;> simp [emitSample, envelopeTurn, advanceCursor]
@[simp] theorem tick_inputs (s : State) : (tick s).inputs = s.inputs := by
  unfold tick tickWith; split <;> simp [emitSample, envelopeTurn, advanceCursor]

/-! ## Commands -/

/-- The state a command leaves. -/
def afterCommand (i : Instr) (s : State) : State :=
  match exec i s with
  | .next t => t
  | .fault _ => s
  | .refused _ => s

/-- Every command answers a next state (60_exceptions.md R210). -/
theorem exec_eq_afterCommand (i : Instr) (s : State) : exec i s = .next (afterCommand i s) := by
  cases i <;> rfl

/-! What each command leaves, in terms of the register updates. -/

section commands
variable (s : State) (ch : Channel) (wave env : BitVec 3) (pitch length : Index7)

theorem afterCommand_nop : afterCommand .nop s = s := rfl
theorem afterCommand_configure : afterCommand (.configure ch wave pitch env length) s
    = s.modifyVoice ch (Voice.arm Config.roms wave pitch env length) := rfl
theorem afterCommand_start : afterCommand (.start ch) s = (s.modifyVoice ch Voice.restart).setLast ch := rfl
theorem afterCommand_stop : afterCommand (.stop ch) s = s.modifyVoice ch Voice.silence := rfl
theorem afterCommand_playNote : afterCommand (.playNote wave pitch env length) s
    = (((s.modifyVoice (nextChannel s.last) (Voice.arm Config.roms wave pitch env length)).modifyVoice (nextChannel s.last)
        Voice.restart).setLast (nextChannel s.last)).setResp (zext8 (nextChannel s.last)) := rfl
theorem afterCommand_pause :
    afterCommand .pause s = (s.setPaused (!s.paused)).setResp (zext8 (pausedBit (!s.paused))) := rfl
theorem afterCommand_nextRr : afterCommand .nextRr s = s.setResp (zext8 (nextChannel s.last)) := rfl
theorem afterCommand_nextMf : afterCommand .nextMf s = s.setResp (zext8 (mostFinished s)) := rfl
theorem afterCommand_readPitch : afterCommand (.readPitch ch) s = s.setResp (zext8 (s.voice ch).pitch) := rfl
theorem afterCommand_readLength : afterCommand (.readLength ch) s = s.setResp (zext8 (s.voice ch).len) := rfl
theorem afterCommand_reserved : afterCommand .reserved s = s := rfl

end commands

/-! ## One step -/

/-- Everything one step can be: waiting, a RESET, a command, a TICK or an idle cycle (20_memory.md R61, R215). -/
theorem step_cases {s t : State} (h : step s = .next t) :
    (s.inputs = [] ∧ t = s) ∨
    ∃ c rest, s.inputs = c :: rest ∧
      ((c.rst = true ∧ t = State.reset.setInputs rest) ∨
       (c.rst = false ∧ c.cmdValid = true ∧
         t = afterCommand (decode c.cmd)
           (s.setInputs (if c.tick then { c with cmdValid := false } :: rest else rest))) ∨
       (c.rst = false ∧ c.cmdValid = false ∧ c.tick = true ∧ t = tick (s.setInputs rest)) ∨
       (c.rst = false ∧ c.cmdValid = false ∧ c.tick = false ∧ t = s.setInputs rest)) := by
  cases hi : s.inputs with
  | nil =>
    simp only [step, State.takeEvent, hi, Host.Outcome.next.injEq] at h
    exact .inl ⟨rfl, h.symm⟩
  | cons c rest =>
    refine .inr ⟨c, rest, rfl, ?_⟩
    obtain ⟨rst, tk, valid, w⟩ := c
    cases rst <;> cases valid <;> cases tk <;>
      simp_all [step, State.takeEvent, PortCycle.firstEvent, exec_eq_afterCommand, applyReset]

end Sys2Proof.Machine
end

