-- ==== Sys2Proof/Laws/PerInstr.lean ====
section
/-! SUPPORT. Facts stated per instruction: the encoded word of each command lies in the command's own row of the opcode table
(30_encoding.md R72, opcode_table.json). -/

namespace Sys2Proof.Laws.TableRow

/-- The row of `opcodeTable` with the command's mnemonic accepts the command's word. -/
def Statement (i : Instr) : Prop := ∃ r ∈ opcodeTable, r.mnemonic = i.mnemonic ∧ encode i &&& r.mask = r.fixed

theorem nop : Statement .nop :=
  ⟨⟨"NOP", 0xE0000000#32, 0x00000000#32⟩, by simp [opcodeTable], rfl, by decide⟩

theorem configure (ch : Channel) (wave : BitVec 3) (pitch : Index7) (env : BitVec 3) (length : Index7) : Statement (.configure ch wave pitch env length) :=
  ⟨⟨"CONFIGURE", 0xE0000000#32, 0x20000000#32⟩, by simp [opcodeTable], rfl, by
    ext i hi
    simp only [encode, BitVec.getElem_and, BitVec.getElem_append]
    interval_cases i <;> simp⟩

theorem start (ch : Channel) : Statement (.start ch) :=
  ⟨⟨"START", 0xE0000000#32, 0x40000000#32⟩, by simp [opcodeTable], rfl, by
    ext i hi
    simp only [encode, BitVec.getElem_and, BitVec.getElem_append]
    interval_cases i <;> simp⟩

theorem stop (ch : Channel) : Statement (.stop ch) :=
  ⟨⟨"STOP", 0xE0000000#32, 0x60000000#32⟩, by simp [opcodeTable], rfl, by
    ext i hi
    simp only [encode, BitVec.getElem_and, BitVec.getElem_append]
    interval_cases i <;> simp⟩

theorem playNote (wave : BitVec 3) (pitch : Index7) (env : BitVec 3) (length : Index7) : Statement (.playNote wave pitch env length) :=
  ⟨⟨"PLAY_NOTE", 0xE0000000#32, 0x80000000#32⟩, by simp [opcodeTable], rfl, by
    ext i hi
    simp only [encode, BitVec.getElem_and, BitVec.getElem_append]
    interval_cases i <;> simp⟩

theorem pause : Statement .pause :=
  ⟨⟨"PAUSE", 0xE0000000#32, 0xA0000000#32⟩, by simp [opcodeTable], rfl, by decide⟩

theorem nextRr : Statement .nextRr :=
  ⟨⟨"NEXT_RR", 0xE3000000#32, 0xC0000000#32⟩, by simp [opcodeTable], rfl, by decide⟩

theorem nextMf : Statement .nextMf :=
  ⟨⟨"NEXT_MF", 0xE3000000#32, 0xC1000000#32⟩, by simp [opcodeTable], rfl, by decide⟩

theorem readPitch (ch : Channel) : Statement (.readPitch ch) :=
  ⟨⟨"READ_PITCH", 0xE3000000#32, 0xC2000000#32⟩, by simp [opcodeTable], rfl, by
    ext i hi
    simp only [encode, BitVec.getElem_and, BitVec.getElem_append]
    interval_cases i <;> simp⟩

theorem readLength (ch : Channel) : Statement (.readLength ch) :=
  ⟨⟨"READ_LENGTH", 0xE3000000#32, 0xC3000000#32⟩, by simp [opcodeTable], rfl, by
    ext i hi
    simp only [encode, BitVec.getElem_and, BitVec.getElem_append]
    interval_cases i <;> simp⟩

theorem reserved : Statement .reserved :=
  ⟨⟨"RESERVED", 0xE0000000#32, 0xE0000000#32⟩, by simp [opcodeTable], rfl, by decide⟩

end Sys2Proof.Laws.TableRow
end

