-- ==== Sys2Proof/Laws/Runs.lean ====
section
/-! SUPPORT. Sequences of TICKs and of commands: how they compose and what they leave alone. -/

namespace Sys2Proof.Machine

theorem ticks_add (m n : Nat) (s : State) : ticks (m + n) s = ticks n (ticks m s) := by
  induction m generalizing s with
  | zero => rw [Nat.zero_add, ticks]
  | succ m ih => rw [Nat.succ_add, ticks, ih, ticks]

/-- The last TICK of a sequence. -/
theorem ticks_succ (n : Nat) (s : State) : ticks (n + 1) s = tick (ticks n s) := by
  rw [ticks_add]
  rfl

@[simp] theorem ticks_paused (n : Nat) (s : State) : (ticks n s).paused = s.paused := by
  induction n with
  | zero => rfl
  | succ n ih => rw [ticks_succ, tick_paused, ih]

/-- TICKs while paused (R130). -/
theorem ticks_of_paused (n : Nat) {s : State} (h : s.paused = true) : ticks n s = s := by
  induction n with
  | zero => rfl
  | succ n ih => rw [ticks, tick_of_paused h, ih]

/-- A sequence of commands always answers the state its commands leave one after the other (R210). -/
theorem runCommands_eq (is : List Instr) (s : State) : runCommands is s = .next (is.foldl (fun s i => afterCommand i s) s) := by
  induction is generalizing s with
  | nil => rfl
  | cons i is ih =>
    rw [runCommands, exec_eq_afterCommand]
    exact ih _

/-- Commands neither read nor write the port samples. -/
theorem afterCommand_setInputs (i : Instr) (s : State) (l : List PortCycle) :
    afterCommand i (s.setInputs l) = (afterCommand i s).setInputs l := by
  cases i <;> rfl

end Sys2Proof.Machine
end

