-- ==== Sys2Proof/Tests/Slice0.lean ====
section
/-! SUPPORT. Small tests, expected values from 95_test_vectors.md and the rules' own examples, and one witness for each
statement that has hypotheses. -/

namespace Sys2Proof.Tests

open Sys2Proof Sys2Proof.Machine

/-! ## The fixture ROMs T (95_test_vectors.md 0): invented test data, no claim about any real table -/

/-- Fixture T. -/
def fixtureT : Roms :=
  { wave := fun k =>
      if k.val < 256 then BitVec.ofNat 8 k.val
      else if k.val < 512 then 64#8
      else if k.val < 640 then 127#8
      else if k.val < 768 then 128#8
      else if k.val < 1024 then BitVec.ofInt 8 (-64)
      else BitVec.ofNat 8 (k.val % 256) ^^^ 0x55#8
    env := fun k =>
      if k.val < 128 then BitVec.ofNat 8 (2 * k.val)
      else if k.val < 256 then BitVec.ofNat 8 (255 - 2 * (k.val % 128))
      else if k.val < 384 then 128#8
      else BitVec.ofNat 8 (k.val % 128)
    pitch := fun p => BitVec.ofNat 16 (256 * p.val)
    len := fun l => BitVec.ofNat 16 (256 * l.val) }

/-- A state that differs from reset in one voice. -/
def withVoice (v : Channel) (x : Voice) : State := State.reset.setVoice v x

/-- Voice 1 at its turn, with these envelope registers and AMP 99 before (95_test_vectors.md 2.3). -/
def envelopeAfter (eacc einc : Fixed) : Nat × Nat :=
  let x := (tickWith fixtureT (withVoice 1 { Voice.reset with eacc := eacc, einc := einc, amp := 99 })).voice 1
  (x.eacc.toNat, x.amp.toNat)

/-! ## Decoding (95_test_vectors.md 2.1, 30_encoding.md R86) -/

theorem test_decode_nop : decode 0x00000000#32 = .nop := by decide
theorem test_decode_nop_reserved_bits : decode 0x1FFFFFFF#32 = .nop := by decide
theorem test_decode_configure : decode 0b00101101101010001010001000000000#32 = .configure 3 3 69 2 8 := by decide
theorem test_decode_configure_unrecognised : decode 0x2E7FFFC0#32 = .configure 3 4 127 7 127 := by decide
theorem test_decode_start : decode 0x4C000000#32 = .start 3 := by decide
theorem test_decode_stop : decode 0x74000000#32 = .stop 5 := by decide
theorem test_decode_play_note : decode 0x80978400#32 = .playNote 1 60 1 16 := by decide
theorem test_decode_play_note_reserved_bits : decode 0x9C978400#32 = .playNote 1 60 1 16 := by decide
theorem test_decode_pause : decode 0xA0000000#32 = .pause := by decide
theorem test_decode_next_rr : decode 0xC0000000#32 = .nextRr := by decide
theorem test_decode_next_mf : decode 0xC1000000#32 = .nextMf := by decide
theorem test_decode_read_pitch : decode 0xCE000000#32 = .readPitch 3 := by decide
theorem test_decode_read_length : decode 0xCF000000#32 = .readLength 3 := by decide
theorem test_decode_reserved : decode 0xE0000000#32 = .reserved ∧ decode 0xFFFFFFFF#32 = .reserved := by decide
theorem test_encode_configure : encode (.configure 3 3 69 2 8) = 0x2DA8A200#32 := by decide
theorem test_decode_table_word : decodeTableWord 32 0x4C000000 = some (.start 3) ∧ decodeTableWord 40 0 = none := by decide

/-! ## Well-formed assembly lines: a term that each check refuses (R84) -/

theorem test_wf_accepts : (AsmCmd.configure (-1) 7 127 7 127).wellFormed = true := by decide
theorem test_wf_refuses_pitch : (AsmCmd.configure 0 0 128 0 0).wellFormed = false := by decide
theorem test_wf_refuses_length : (AsmCmd.playNote 0 0 0 (-1)).wellFormed = false := by decide
theorem test_wf_refuses_wave : (AsmCmd.note 0 8 0 0 0).wellFormed = false := by decide
theorem test_wf_refuses_env : (AsmCmd.playNote 0 0 8 0).wellFormed = false := by decide

/-- 95_test_vectors.md L1-5, P2 and 30_encoding.md R85. -/
theorem test_assemble_text :
    assembleText "CONFIGURE 11, NOISE, 127, 7, 127 ; ch 3\n\nSTART -1\nNOTE 10, TRI, 2, 2, 1".toList
      = .words [0x2E7FFFC0#32, 0x5C000000#32, 0x28A04040#32, 0x48000000#32] := by decide
/-- R84: the error names the line. -/
theorem test_assemble_refuses_line : assembleText "NOP\nPLAY_NOTE SIN, 128, 0, 0".toList = .refusedLine 2 := by decide

/-! ## Commands (95_test_vectors.md 1, 2.2, 2.6, 2.7) -/

/-- 2.2 row 1: unrecognised wave and env fall back, PINC and EINC from the tables. -/
theorem test_configure_fallback :
    (configureWith fixtureT 0 5 10 4 3 State.reset).voice 0
      = { Voice.reset with wsel := 0, esel := 0, pinc := 0x0A00, einc := 0x0300, pitch := 10, len := 3 } := by decide
/-- 2.2 row 2: the accumulators and AMP of a sounding voice stay. -/
theorem test_configure_keeps_accumulators :
    (configureWith fixtureT 6 1 2 3 1 (withVoice 6 { Voice.reset with pacc := 0x1234, eacc := 0x2000, amp := 77 })).voice 6
      = { wsel := 1, esel := 3, pacc := 0x1234, pinc := 0x0200, eacc := 0x2000, einc := 0x0100, amp := 77, pitch := 2,
          len := 1 } := by decide
/-- L1-6. -/
theorem test_start :
    exec (.start 4) (withVoice 4 { Voice.reset with pacc := 0xBEEF, eacc := 0x9123, amp := 5 })
      = .next { withVoice 4 { Voice.reset with pacc := 0, eacc := 0, amp := 5 } with last := 4 } := rfl
/-- L1-7. -/
theorem test_stop :
    exec (.stop 2) (withVoice 2 { Voice.reset with eacc := 0x0100, amp := 128 })
      = .next (withVoice 2 { Voice.reset with eacc := 0x8000, amp := 128 }) := rfl
/-- 2.2 row 6. -/
theorem test_play_note :
    playNoteWith fixtureT 1 60 1 16 State.reset
      = { withVoice 1 { Voice.reset with wsel := 1, esel := 1, pinc := 0x3C00, einc := 0x1000, eacc := 0, pitch := 60, len := 16 }
          with last := 1, resp := 1 } := by decide
/-- 2.2 row 5: after LAST = 7 the channel is 0. -/
theorem test_play_note_wraps :
    (playNoteWith fixtureT 0 0 0 0 (State.reset.setLast 7)).last = 0
      ∧ (playNoteWith fixtureT 0 0 0 0 (State.reset.setLast 7)).resp = 0 := by decide
/-- 2.7 rows 1 and 2. -/
theorem test_pause : exec .pause State.reset = .next { State.reset with paused := true, resp := 1 } := rfl
theorem test_pause_again : exec .pause (State.reset.setPaused true) = .next { State.reset with resp := 0 } := rfl
/-- L1-3. -/
theorem test_next_rr_wraps : exec .nextRr (State.reset.setLast 7) = .next { State.reset with last := 7, resp := 0 } := rfl
/-- L1-4: of eligible voices 1 (AMP 40) and 5 (AMP 10) NEXT_MF picks 5. -/
theorem test_next_mf :
    mostFinished ((({ State.reset with voices := Vector.replicate 8 { Voice.reset with eacc := 0x1000 } }).setVoice 1
      { Voice.reset with eacc := 0x5000, amp := 40 }).setVoice 5 { Voice.reset with eacc := 0x6000, amp := 10 }) = 5 := by decide
/-- 2.6 row 5: a tie goes to the lowest index. -/
theorem test_next_mf_tie :
    mostFinished ((({ State.reset with voices := Vector.replicate 8 { Voice.reset with eacc := 0x0100 } }).setVoice 2
      { Voice.reset with eacc := 0x9000, amp := 10 }).setVoice 6 { Voice.reset with eacc := 0x4001, amp := 10 }) = 2 := by decide
/-- 2.7 row 5. -/
theorem test_read_pitch :
    exec (.readPitch 3) (withVoice 3 { Voice.reset with pitch := 69, len := 8 })
      = .next { withVoice 3 { Voice.reset with pitch := 69, len := 8 } with resp := 69 } := rfl
theorem test_read_length :
    exec (.readLength 3) (withVoice 3 { Voice.reset with pitch := 69, len := 8 })
      = .next { withVoice 3 { Voice.reset with pitch := 69, len := 8 } with resp := 8 } := rfl
/-- 2.7 row 6. -/
theorem test_nop : exec .nop (State.reset.setResp 5) = .next (State.reset.setResp 5) := rfl
theorem test_reserved : exec .reserved (State.reset.setResp 5) = .next (State.reset.setResp 5) := rfl

/-! ## TICK (95_test_vectors.md 2.3, 2.4, 2.5, 2.7) -/

/-- 2.3: last table entry, crossing at the sentinel, saturation, finished, no increment, largest increment. -/
theorem test_tick_envelope :
    envelopeAfter 0x7E00 0x0100 = (0x7F00, 254) ∧ envelopeAfter 0x7F00 0x0100 = (0x8000, 0) ∧
    envelopeAfter 0x7FFF 0xFFFF = (0xFFFF, 0) ∧ envelopeAfter 0x8000 0x0100 = (0x8000, 0) ∧
    envelopeAfter 0x1234 0x0000 = (0x1234, 36) ∧ envelopeAfter 0x0000 0x7FFF = (0x7FFF, 254) := by decide
/-- 2.4. -/
theorem test_tick_phase :
    ({ Voice.reset with pacc := 0xFF80, pinc := 0x0100 }).phaseStep.pacc = 0x0080#16
      ∧ ({ Voice.reset with pacc := 0x7FFF, pinc := 0x8001 }).phaseStep.pacc = 0x0000#16 := by decide
/-- 2.5: contributions. -/
theorem test_scale :
    scaleSample (-1) 255 = -1 ∧ scaleSample (-128) 255 = -128 ∧ scaleSample 127 255 = 126 ∧ scaleSample (-64) 128 = -32 := by decide
/-- 2.5: sum to OUT, with both wraps. -/
theorem test_output :
    ([-1, -5, 4, 515, 516, 1008, -508, -512, -1024].map outputSample) = [126, 125, 128, 255, 0, 123, 0, 255, 127] := by decide
/-- P1, TICK 1: one square voice at its turn. -/
theorem test_tick_out :
    (tickWith fixtureT (withVoice 1 { Voice.reset with
      wsel := 2, esel := 1, pinc := 0x4000, einc := 0x4000, eacc := 0, pitch := 64, len := 64 })).out = 142 := by decide
/-- 2.7 row 3. -/
theorem test_tick_paused :
    tickWith fixtureT { State.reset with paused := true, cursor := 3, out := 200 }
      = { State.reset with paused := true, cursor := 3, out := 200 } := by decide

/-! ## The first step after reset runs the presented word -/

theorem test_step_runs_start : step (State.reset.withFetchWord 32 0x4C000000) = exec (.start 3) State.reset := rfl
theorem test_step_runs_configure : step (State.reset.withFetchWord 32 0x2DA8A200) = exec (.configure 3 3 69 2 8) State.reset := rfl

/-! ## Witnesses: for each statement with hypotheses, a concrete case that meets them all -/

/-- A cycle with a command and a TICK. -/
def commandAndTick (w : Word) : PortCycle := { rst := false, tick := true, cmdValid := true, cmd := w }
/-- A cycle with RESET, a command and a TICK. -/
def resetCycle : PortCycle := { rst := true, tick := true, cmdValid := true, cmd := 0xA0000000 }
/-- Reset with these cycles to come. -/
def presenting (l : List PortCycle) : State := State.reset.setInputs l

theorem witness_ReservedBitsAreIgnored :
    0x80978400#32 &&& (decode 0x80978400#32).usedBits = 0x9C97843F#32 &&& (decode 0x80978400#32).usedBits := by decide
theorem witness_ReservedOpcodeHasNoEffect : (0xFFFFFFFF#32).toNat / 2 ^ 29 = 7 := by decide
theorem witness_StepRunsThePresentedCommand :
    (presenting [commandAndTick 0xA0000000]).inputs = commandAndTick 0xA0000000 :: []
      ∧ (commandAndTick 0xA0000000).rst = false ∧ (commandAndTick 0xA0000000).cmdValid = true ∧ 0xFFFFFFFF < 2 ^ 32 := by decide
theorem witness_StepTicksOrWaits :
    (presenting [tickCycle]).inputs = tickCycle :: [] ∧ tickCycle.rst = false ∧ tickCycle.cmdValid = false
      ∧ State.reset.inputs = [] := by decide
theorem witness_SameCycleCommandBeforeTick :
    (presenting [resetCycle]).inputs = resetCycle :: [] ∧ resetCycle.rst = true
      ∧ (presenting [commandAndTick 0x4C000000]).inputs = commandAndTick 0x4C000000 :: []
      ∧ (commandAndTick 0x4C000000).rst = false ∧ (commandAndTick 0x4C000000).cmdValid = true
      ∧ (commandAndTick 0x4C000000).tick = true := by decide
theorem witness_ResetSetsEveryRegister :
    (presenting [resetCycle, tickCycle]).inputs = resetCycle :: [tickCycle] ∧ resetCycle.rst = true := by decide
theorem witness_UnrecognisedSelectorsFallBack : 4 < (5#3).toNat ∧ 4 < (7#3).toNat ∧ 3 < (4#3).toNat ∧ 3 < (7#3).toNat := by decide
theorem witness_PlayNoteUsesTheNextChannel : (0#3).toNat = ((State.reset.setLast 7).last.toNat + 1) % 8 := by decide
theorem witness_PlayNoteIsConfigureThenStart : (1#3).toNat = (State.reset.last.toNat + 1) % 8 := by decide
theorem witness_PlayNotesRotateThroughChannels :
    (∀ i ∈ List.replicate 9 (Instr.playNote 1 60 1 16), ∃ wave pitch env length, i = .playNote wave pitch env length)
      ∧ List.replicate 9 (Instr.playNote 1 60 1 16) ≠ [] :=
  ⟨fun _ hi => ⟨1, 60, 1, 16, List.eq_of_mem_replicate hi⟩, by decide⟩
theorem witness_VoiceCommandsNeitherReadNorWriteTheEngine :
    (∀ v, { (withVoice 2 { Voice.reset with amp := 9 }).voice v with amp := 0#8 }
      = { ((State.reset.setCursor 5).voice v) with amp := 0#8 })
      ∧ (withVoice 2 { Voice.reset with amp := 9 }).last = (State.reset.setCursor 5).last
      ∧ (withVoice 2 { Voice.reset with amp := 9 }).resp = (State.reset.setCursor 5).resp := by decide
theorem witness_NextMfAnswersTheQuietestEligible :
    (∃ v, 0x4000 < ((withVoice 7 { Voice.reset with eacc := 0x4001 }).voice v).eacc.toNat)
      ∧ ∀ v, (({ State.reset with voices := Vector.replicate 8 { Voice.reset with eacc := 0x4000 } } : State).voice v).eacc.toNat
          ≤ 0x4000 := by decide
theorem witness_NopChangesNothing : (0x1FFFFFFF#32).toNat / 2 ^ 29 = 0 := by decide
theorem witness_PauseTwiceResumesWhereItWas : State.reset.paused = false := rfl
theorem witness_CommandsIgnorePaused : Instr.start 7 ≠ .pause := by decide
theorem witness_OnlyTheirWritersChangeLastRespPaused :
    exec (.stop 2) State.reset = .next (State.reset.modifyVoice 2 Voice.silence) ∧ startsVoice (.stop 2) = false
      ∧ writesResp (.stop 2) = false ∧ Instr.stop 2 ≠ .pause := ⟨rfl, by decide⟩
theorem witness_OnlyPauseOrResetChangesPaused :
    step (presenting [commandCycle 0xA0000000]) = .next { State.reset with paused := true, resp := 1 }
      ∧ (true : Bool) ≠ (presenting [commandCycle 0xA0000000]).paused := ⟨rfl, by decide⟩
theorem witness_EveryStepKeepsTheValueInvariants :
    LegalValues (presenting [commandCycle 0xC0000000]) ∧
      step (presenting [commandCycle 0xC0000000]) = .next { State.reset with resp := 1 } := ⟨by decide, rfl⟩
theorem witness_EveryWaveReadIsInRange :
    LegalValues (withVoice 7 { Voice.reset with wsel := 4, pacc := 0xFFFF }) := by decide
theorem witness_RomImagesAreLittleEndian :
    (254 : Fin 256).val = 2 * (127 : Fin 128).val ∧ (255 : Fin 256).val = 2 * (127 : Fin 128).val + 1 := by decide
theorem witness_PausedTickIsDropped :
    ((presenting [tickCycle]).setPaused true).paused = true ∧ ((presenting [tickCycle]).setPaused true).inputs = tickCycle :: []
      ∧ tickCycle.rst = false ∧ tickCycle.cmdValid = false ∧ tickCycle.tick = true := by decide
/-- All three branches, at the edge of each: EACC 0x8000, sum 0x7FFF with its ENV index 127, and sum 0x8000. -/
theorem witness_TickStepsOneEnvelope :
    State.reset.paused = false ∧ (1#3).toNat = (State.reset.cursor.toNat + 1) % 8
      ∧ 0x8000 ≤ (State.reset.voice 1).eacc.toNat
      ∧ ((withVoice 1 { Voice.reset with eacc := 0x7FFE, einc := 1 }).voice 1).eacc.toNat < 0x8000
      ∧ 0x7FFF = 0x7FFE + 1 ∧ (127 : Fin 512).val = (0#2).toNat * 128 + 0x7FFF / 256
      ∧ ((withVoice 1 { Voice.reset with eacc := 0x7FFF, einc := 1 }).voice 1).eacc.toNat < 0x8000
      ∧ (2#3) ≠ 1#3 := by decide
theorem witness_TickStepsEveryPhase : State.reset.paused = false := rfl
theorem witness_TickOutputsTheMix :
    State.reset.paused = false ∧ LegalValues State.reset ∧
      ∀ v, (0 : Fin 1280).val = (State.reset.voice v).wsel.toNat * 256 + ((tick State.reset).voice v).pacc.toNat / 256 := by decide
/-- The range's ends, and sums whose biased value wraps high and low. -/
theorem witness_MixerArithmetic :
    (-1024 ≤ (-1024 : Int) ∧ (1008 : Int) ≤ 1008) ∧ ((-1 : Int) < 0 ∧ (-1 : Int) % 4 ≠ 0) ∧ 256 ≤ Int.fdiv 516 4 + 127 ∧ Int.fdiv (-512) 4 + 127 < 0 := by decide
theorem witness_EngineIgnoresIntrospectionState :
    (∀ v, { (withVoice 3 { Voice.reset with pitch := 69 }).voice v with pitch := 0#7, len := 0#7 }
      = { State.reset.voice v with pitch := 0#7, len := 0#7 })
      ∧ (withVoice 3 { Voice.reset with pitch := 69 }).paused = State.reset.paused
      ∧ (withVoice 3 { Voice.reset with pitch := 69 }).cursor = State.reset.cursor
      ∧ (withVoice 3 { Voice.reset with pitch := 69 }).out = State.reset.out := by decide
/-- Voice 0 after reset has its turn at the 8th TICK, the latest (k = 8); finished, running and crossing cases, the
last two at sums 0x7FFF and 0x8000. -/
theorem witness_TurnSchedule :
    State.reset.paused = false ∧ 8 = ((0#3).toNat + 7 - State.reset.cursor.toNat) % 8 + 1
      ∧ 0x8000 ≤ (State.reset.voice 0).eacc.toNat
      ∧ ((withVoice 0 { Voice.reset with eacc := 0x7F00, einc := 0xFF }).voice 0).eacc.toNat < 0x8000
      ∧ (127 : Fin 512).val = (0#2).toNat * 128 + (0x7F00 + 0xFF) / 256
      ∧ ((withVoice 0 { Voice.reset with eacc := 0x7F00, einc := 0x100 }).voice 0).eacc.toNat < 0x8000
      ∧ 0x8000 = ((withVoice 0 { Voice.reset with eacc := 0x7F00, einc := 0x100 }).voice 0).eacc.toNat
        + ((withVoice 0 { Voice.reset with eacc := 0x7F00, einc := 0x100 }).voice 0).einc.toNat := by decide
/-- L1-1: EINC 2048 finishes at the 16th turn. -/
theorem witness_EnvelopeTerminates :
    (withVoice 1 { Voice.reset with eacc := 0, einc := 2048 }).paused = false
      ∧ 1 = ((1#3).toNat + 7 - (withVoice 1 { Voice.reset with eacc := 0, einc := 2048 }).cursor.toNat) % 8 + 1
      ∧ ((withVoice 1 { Voice.reset with eacc := 0, einc := 2048 }).voice 1).eacc = 0#16
      ∧ 2048 = ((withVoice 1 { Voice.reset with eacc := 0, einc := 2048 }).voice 1).einc.toNat
      ∧ 0 < 2048 ∧ 16 = (32768 + 2048 - 1) / 2048 := by decide
/-- EINC 0x8000, the smallest that finishes at its first turn (n = 1), for the voice with the latest turn (k = 8); and 0xFFFF. -/
theorem witness_EnvelopeTerminates_oneTurn :
    (withVoice 0 { Voice.reset with eacc := 0, einc := 0x8000 }).paused = false
      ∧ 8 = ((0#3).toNat + 7 - (withVoice 0 { Voice.reset with eacc := 0, einc := 0x8000 }).cursor.toNat) % 8 + 1
      ∧ ((withVoice 0 { Voice.reset with eacc := 0, einc := 0x8000 }).voice 0).eacc = 0#16
      ∧ 0x8000 = ((withVoice 0 { Voice.reset with eacc := 0, einc := 0x8000 }).voice 0).einc.toNat
      ∧ 0 < 0x8000 ∧ 1 = (32768 + 0x8000 - 1) / 0x8000 ∧ 1 = (32768 + 0xFFFF - 1) / 0xFFFF := by decide
/-- EACC at the last value below the sentinel, ENV index 127, first turn at k = 8. -/
theorem witness_EnvelopeWithoutIncrementRunsForever :
    (withVoice 0 { Voice.reset with eacc := 0x7FFF }).paused = false
      ∧ 8 = ((0#3).toNat + 7 - (withVoice 0 { Voice.reset with eacc := 0x7FFF }).cursor.toNat) % 8 + 1
      ∧ ((withVoice 0 { Voice.reset with eacc := 0x7FFF }).voice 0).eacc.toNat < 0x8000
      ∧ ((withVoice 0 { Voice.reset with eacc := 0x7FFF }).voice 0).einc = 0#16
      ∧ (127 : Fin 512).val = ((withVoice 0 { Voice.reset with eacc := 0x7FFF }).voice 0).esel.toNat * 128
        + ((withVoice 0 { Voice.reset with eacc := 0x7FFF }).voice 0).eacc.toNat / 256 := by decide
/-- L1-2. -/
theorem witness_PhaseCycle :
    (withVoice 2 { Voice.reset with pinc := 256 }).paused = false
      ∧ ((withVoice 2 { Voice.reset with pinc := 256 }).voice 2).pinc = 256#16
      ∧ ((withVoice 2 { Voice.reset with pinc := 256 }).voice 2).pacc = 0#16
      ∧ ((withVoice 2 { Voice.reset with pinc := 256 }).voice 2).pinc ≠ 0#16 := by decide
theorem witness_SilentBlockOutputsMidScale : Silent State.reset ∧ State.reset.paused = false := by decide
theorem witness_OnlyStartingAVoiceEndsSilence :
    Silent (presenting [commandCycle 0x60000000]) ∧ (presenting [commandCycle 0x60000000]).out = 127#8
      ∧ step (presenting [commandCycle 0x60000000]) = .next (State.reset.modifyVoice 0 Voice.silence)
      ∧ startsVoice (decode 0x60000000#32) = false := ⟨by decide, by decide, rfl, by decide⟩
/-- k = 1 for voice 1; EINC on each side of 0x8000. -/
theorem witness_StartTakesEffectAtTheNextTurn :
    State.reset.paused = false ∧ 1 = ((1#3).toNat + 7 - State.reset.cursor.toNat) % 8 + 1
      ∧ ((withVoice 1 { Voice.reset with einc := 0x7FFF }).voice 1).einc.toNat < 0x8000
      ∧ (127 : Fin 512).val = (0#2).toNat * 128 + 0x7FFF / 256
      ∧ 0x8000 ≤ ((withVoice 1 { Voice.reset with einc := 0x8000 }).voice 1).einc.toNat := by decide
/-- P2: voice 2 stopped when CURSOR = 3 has its turn 7 TICKs later. -/
theorem witness_StopTakesEffectAtTheNextTurn :
    (State.reset.setCursor 3).paused = false ∧ 7 = ((2#3).toNat + 7 - (State.reset.setCursor 3).cursor.toNat) % 8 + 1 := by decide
theorem witness_PauseBracketDropsEveryTick :
    State.reset.paused = false ∧
      ∀ c ∈ [tickCycle, commandAndTick 0x54000000], c.rst = false ∧ (c.cmdValid = true → decode c.cmd ≠ .pause) := by decide
theorem witness_AssemblerMasksChannelsAndRefusesTheRest :
    ((0 ≤ (127 : Int) ∧ (127 : Int) ≤ 127) ∧ (0 ≤ (0 : Int) ∧ (0 : Int) ≤ 127) ∧ (0 ≤ (7 : Int) ∧ (7 : Int) ≤ 7) ∧
      (0 ≤ (7 : Int) ∧ (7 : Int) ≤ 7)) ∧
    ¬((0 ≤ (128 : Int) ∧ (128 : Int) ≤ 127) ∧ (0 ≤ (0 : Int) ∧ (0 : Int) ≤ 127) ∧ (0 ≤ (7 : Int) ∧ (7 : Int) ≤ 7) ∧
      (0 ≤ (7 : Int) ∧ (7 : Int) ≤ 7)) := by decide
theorem witness_PseudoInstructionsExpand : assembleCmd (.configure 10 1 2 2 1) = some [0x28A04040#32] := by decide

end Sys2Proof.Tests
end

section
/-! The state family (10_state.md): what a command and a TICK leave unchanged, register by register, and the value
invariants of R40 as a step lemma. -/

namespace Sys2Proof.Machine

/-! ## What no command writes (R27, R30, R32, R37) -/

@[simp] theorem afterCommand_cursor (i : Instr) (s : State) : (afterCommand i s).cursor = s.cursor := by
  cases i <;> rfl
@[simp] theorem afterCommand_out (i : Instr) (s : State) : (afterCommand i s).out = s.out := by
  cases i <;> rfl
@[simp] theorem afterCommand_inputs (i : Instr) (s : State) : (afterCommand i s).inputs = s.inputs := by
  cases i <;> rfl

/-- Changing one voice by a function that keeps AMP keeps every AMP. -/
theorem modifyVoice_amp (s : State) (u v : Channel) {f : Voice → Voice} (hf : ∀ x, (f x).amp = x.amp) :
    ((s.modifyVoice v f).voice u).amp = (s.voice u).amp := by
  rw [modifyVoice_voice]
  split
  · next h => rw [hf, h]
  · rfl

/-- Only four commands write a voice, by `arm`, `restart` and `silence`, and none of these writes AMP (R102 to R105). -/
@[simp] theorem afterCommand_amp (i : Instr) (s : State) (v : Channel) :
    ((afterCommand i s).voice v).amp = (s.voice v).amp := by
  cases i with
  | configure ch wave pitch env length => exact modifyVoice_amp s v ch fun _ => rfl
  | start ch => exact modifyVoice_amp s v ch fun _ => rfl
  | stop ch => exact modifyVoice_amp s v ch fun _ => rfl
  | playNote wave pitch env length =>
    rw [afterCommand_playNote, setResp_voice, setLast_voice, modifyVoice_amp _ _ _ restart_amp,
      modifyVoice_amp _ _ _ (arm_amp Config.roms wave pitch env length)]
  | _ => rfl

/-! ## The writers of LAST, RESP and PAUSED (R31, R33, R34) -/

theorem afterCommand_last {i : Instr} (h : startsVoice i = false) (s : State) : (afterCommand i s).last = s.last := by
  cases i with
  | start ch => exact nomatch h
  | playNote wave pitch env length => exact nomatch h
  | _ => rfl

theorem afterCommand_resp {i : Instr} (h : writesResp i = false) (s : State) : (afterCommand i s).resp = s.resp := by
  cases i with
  | nop => rfl
  | configure ch wave pitch env length => rfl
  | start ch => rfl
  | stop ch => rfl
  | reserved => rfl
  | _ => exact nomatch h

theorem afterCommand_paused {i : Instr} (h : i ≠ .pause) (s : State) : (afterCommand i s).paused = s.paused := by
  cases i with
  | pause => exact absurd rfl h
  | _ => rfl

/-- Settles O31: `afterCommand` is the next state, and its four frame lemmas are the claim. -/
theorem noCommandWritesCursorOutOrAmp : Obligations.NoCommandWritesCursorOutOrAmp := fun i s =>
  ⟨afterCommand i s, exec_eq_afterCommand i s, afterCommand_cursor i s, afterCommand_out i s, afterCommand_inputs i s,
    afterCommand_amp i s⟩

/-- Settles O32: one frame lemma per register for the commands, and TICK's frame. -/
theorem onlyTheirWritersChangeLastRespPaused : Obligations.OnlyTheirWritersChangeLastRespPaused := by
  refine ⟨fun i s t h => ?_, fun s => ⟨tick_last s, tick_resp s, tick_paused s⟩⟩
  obtain rfl : afterCommand i s = t := by simpa [exec_eq_afterCommand] using h
  exact ⟨fun hi => afterCommand_last hi s, fun hi => afterCommand_resp hi s, fun hi => afterCommand_paused hi s⟩

/-! ## The value invariants (R40) -/

/-- An unrecognised waveform id is never stored (R21, R101). -/
theorem resolveWave_le (wave : BitVec 3) : resolveWave wave ≤ 4#3 := by
  unfold resolveWave
  split
  · assumption
  · decide

/-- A value of at most seven bits, put into RESP, is at most 127. -/
theorem zext8_le {n : Nat} (hn : n ≤ 7) (x : BitVec n) : zext8 x ≤ 127#8 := by
  have hx : x.toNat < 2 ^ 7 := Nat.lt_of_lt_of_le x.isLt (Nat.pow_le_pow_right (by decide) hn)
  rw [zext8, BitVec.le_def, BitVec.toNat_setWidth, Nat.mod_eq_of_lt (by omega), BitVec.toNat_ofNat]
  omega

/-- No TICK writes WSEL (R143). -/
@[simp] theorem tick_wsel (s : State) (v : Channel) : ((tick s).voice v).wsel = (s.voice v).wsel := by
  cases hp : s.paused with
  | true => rw [tick_of_paused hp]
  | false =>
    rw [tick_voice hp, phaseStep_wsel]
    split
    · exact envelopeStep_wsel _ _
    · rfl

namespace LegalValues

variable {s : State}

/-! The register updates keep the invariants, each where the value it writes is legal. -/

theorem setInputs (h : LegalValues s) (l : List PortCycle) : LegalValues (s.setInputs l) := h
theorem setLast (h : LegalValues s) (c : Channel) : LegalValues (s.setLast c) := h
theorem setPaused (h : LegalValues s) (b : Bool) : LegalValues (s.setPaused b) := h
theorem setResp (h : LegalValues s) {b : Byte} (hb : b ≤ 127#8) : LegalValues (s.setResp b) := ⟨h.1, hb⟩

theorem modifyVoice (h : LegalValues s) {v : Channel} {f : Voice → Voice} (hf : (f (s.voice v)).wsel ≤ 4#3) :
    LegalValues (s.modifyVoice v f) := by
  refine ⟨fun u => ?_, h.2⟩
  rw [modifyVoice_voice]
  split
  · exact hf
  · exact h.1 u

/-- START's and STOP's part keep WSEL, so they keep the invariants. -/
theorem modifyVoice_of_wsel (h : LegalValues s) (v : Channel) {f : Voice → Voice} (hf : ∀ x, (f x).wsel = x.wsel) :
    LegalValues (s.modifyVoice v f) :=
  h.modifyVoice ((hf _).symm ▸ h.1 v)

/-- Every command keeps the invariants: WSEL is written through `resolveWave` alone, and RESP only with a channel, a raw
7-bit operand or PAUSED, each of at most seven bits. -/
theorem afterCommand (h : LegalValues s) (i : Instr) : LegalValues (afterCommand i s) := by
  cases i with
  | nop => exact h
  | configure ch wave pitch env length => exact h.modifyVoice (resolveWave_le wave)
  | start ch => exact (h.modifyVoice_of_wsel ch restart_wsel).setLast ch
  | stop ch => exact h.modifyVoice_of_wsel ch silence_wsel
  | playNote wave pitch env length =>
    have harm := h.modifyVoice (v := nextChannel s.last) (f := Voice.arm Config.roms wave pitch env length)
      (resolveWave_le wave)
    exact ((harm.modifyVoice_of_wsel _ restart_wsel).setLast _).setResp (zext8_le (by decide) _)
  | pause => exact (h.setPaused _).setResp (zext8_le (by decide) _)
  | nextRr => exact h.setResp (zext8_le (by decide) _)
  | nextMf => exact h.setResp (zext8_le (by decide) _)
  | readPitch ch => exact h.setResp (zext8_le (by decide) _)
  | readLength ch => exact h.setResp (zext8_le (by decide) _)
  | reserved => exact h

/-- A TICK writes neither WSEL nor RESP. -/
theorem tick (h : LegalValues s) : LegalValues (tick s) :=
  ⟨fun v => (tick_wsel s v).symm ▸ h.1 v, (tick_resp s).symm ▸ h.2⟩

end LegalValues

/-- Settles O35: every voice is `Voice.reset`, with WSEL 0, and RESP is 0. -/
theorem valueInvariantsHoldAtReset : Obligations.ValueInvariantsHoldAtReset := by
  refine ⟨fun v => ?_, by decide⟩
  rw [reset_voice]
  decide

/-- Settles O34: each kind of step keeps the invariants. -/
theorem everyStepKeepsTheValueInvariants : Obligations.EveryStepKeepsTheValueInvariants := by
  intro s t hs h
  obtain ⟨-, rfl⟩ | ⟨c, rest, -, ⟨-, rfl⟩ | ⟨-, -, rfl⟩ | ⟨-, -, -, rfl⟩ | ⟨-, -, -, rfl⟩⟩ := step_cases h
  · exact hs
  · exact LegalValues.setInputs valueInvariantsHoldAtReset rest
  · exact (hs.setInputs _).afterCommand _
  · exact (hs.setInputs rest).tick
  · exact hs.setInputs rest

end Sys2Proof.Machine
end

section
/-! The memory family (20_memory.md): WAVE reads stay inside the space (R53), the byte images of the 16-bit ROMs (R55), and
the step that runs a presented command (R61, R71). -/

namespace Sys2Proof.Machine

/-! ## WAVE reads (R50, R53) -/

/-- The integer part of a fixed-point value as a quotient (00_scope.md R15). -/
@[simp] theorem intPart_toNat (a : Fixed) : (intPart a).toNat = a.toNat / 256 := by
  rw [intPart, BitVec.extractLsb'_toNat, Nat.shiftRight_eq_div_pow]
  omega

/-- A read inside the WAVE space is an entry of the ROM, never the free value of an absent one. -/
theorem readWaveEntry_of_lt (r : Roms) {index : Nat} (h : index < 1280) : readWaveEntry r index = r.wave ⟨index, h⟩ :=
  dif_pos h

/-- A legal selector, 0 to 4, and an entry index below 256 stay below 5 * 256 = 1280. -/
theorem waveIndex_lt {w : BitVec 3} (hw : w ≤ 4#3) (a : Fixed) : w.toNat * 256 + a.toNat / 256 < 1280 := by
  have hw4 : w.toNat ≤ 4 := hw
  omega

/-- The sample of a voice whose selector is legal, as the WAVE entry it reads (R138). -/
theorem sample_of_wsel_le (r : Roms) {x : Voice} (h : x.wsel ≤ 4#3) :
    x.sample r = (r.wave ⟨x.wsel.toNat * 256 + x.pacc.toNat / 256, waveIndex_lt h x.pacc⟩).toInt := by
  rw [Voice.sample, waveSample, sext8, intPart_toNat, readWaveEntry_of_lt]

/-- Settles O36: the value invariants bound WSEL by 4, so the index read is below 1280. -/
theorem everyWaveReadIsInRange : Obligations.EveryWaveReadIsInRange := fun r s v hs =>
  have hw : (s.voice v).wsel ≤ 4#3 := hs.1 v
  ⟨⟨_, waveIndex_lt hw (s.voice v).pacc⟩, rfl, sample_of_wsel_le r hw⟩

/-! ## Byte images of the 16-bit ROMs (R55) -/

section image
variable (rom : Fin 128 → Fixed) {p : Fin 128} {k : Fin 256}

theorem romImageByte_even (h : k.val = 2 * p.val) : romImageByte rom k = (rom p).extractLsb' 0 8 := by
  have hp : (⟨k.val / 2, by omega⟩ : Fin 128) = p := Fin.ext (by simp only; omega)
  have hk : k.val % 2 = 0 := by omega
  simp only [romImageByte, hp, if_pos hk]

theorem romImageByte_odd (h : k.val = 2 * p.val + 1) : romImageByte rom k = (rom p).extractLsb' 8 8 := by
  have hp : (⟨k.val / 2, by omega⟩ : Fin 128) = p := Fin.ext (by simp only; omega)
  have hk : ¬k.val % 2 = 0 := by omega
  simp only [romImageByte, hp, if_neg hk]

end image

/-- Loading the image of a ROM puts the two bytes of each entry together again. -/
theorem romOfImage_romImageByte (rom : Fin 128 → Fixed) : romOfImage (romImageByte rom) = rom := by
  funext p
  rw [romOfImage, romImageByte_odd rom (p := p) rfl, romImageByte_even rom (p := p) rfl]
  exact BitVec.extractLsb'_append_extractLsb'

/-- Settles O37: an even byte is the low half of its entry, an odd byte the high half, and loading joins them. -/
theorem romImagesAreLittleEndian : Obligations.RomImagesAreLittleEndian := by
  refine fun rom => ⟨fun p lo hi hlo hhi => ⟨?_, ?_⟩, romOfImage_romImageByte rom⟩
  · rw [romImageByte_even rom hlo, BitVec.extractLsb'_toNat, Nat.shiftRight_zero]
  · rw [romImageByte_odd rom hhi]
    exact intPart_toNat (rom p)

/-! ## The step that runs a command (R61, R71) -/

/-- A cycle's command is its first event, and a TICK of the same cycle stays on the port (R215). -/
theorem takeEvent_of_command {s : State} {c : PortCycle} {rest : List PortCycle} (hi : s.inputs = c :: rest)
    (hr : c.rst = false) (hv : c.cmdValid = true) :
    s.takeEvent = some (.command c.cmd,
      s.setInputs (if c.tick then { c with cmdValid := false } :: rest else rest)) := by
  cases ht : c.tick <;> simp [State.takeEvent, hi, PortCycle.firstEvent, hr, hv, ht]

theorem step_of_command {s : State} {c : PortCycle} {rest : List PortCycle} (hi : s.inputs = c :: rest)
    (hr : c.rst = false) (hv : c.cmdValid = true) :
    step s = exec (decode c.cmd) (s.setInputs (if c.tick then { c with cmdValid := false } :: rest else rest)) := by
  simp only [step, takeEvent_of_command hi hr hv]

/-- A presented word is decoded and run on the very state it was presented to (log 2). -/
theorem step_withFetchWord (s : State) (w : Nat) :
    step (s.withFetchWord 32 w) = exec (decode (BitVec.ofNat 32 w)) s := by
  have hw : BitVec.ofNat 32 (w % 2 ^ 32) = BitVec.ofNat 32 w := BitVec.eq_of_toNat_eq (by simp)
  have hi : (s.withFetchWord 32 w).inputs = commandCycle (BitVec.ofNat 32 w) :: s.inputs := by
    rw [State.withFetchWord, setInputs_inputs, hw]
  rw [step_of_command hi rfl rfl]
  rfl

/-- Settles O9: the command is taken off the port and run, for any cycle that presents one and for `withFetchWord`'s. -/
theorem stepRunsThePresentedCommand : Obligations.StepRunsThePresentedCommand :=
  ⟨fun _ _ _ => step_of_command, fun s w _ => step_withFetchWord s w⟩

end Sys2Proof.Machine
end

section
/-! The encoding family (30_encoding.md), the words: the fields of a word as numbers, when a word carries a command's fields,
and the decoder, the encoder and the opcode table in these terms (R71 to R81, R86). -/

namespace Sys2Proof

/-! ## The fields of a word (R71, R78) -/

section fields
variable (w : Word)

theorem opField_eq_ofNat : opField w = BitVec.ofNat 3 (w.toNat / 2 ^ 29) := by
  rw [opField, BitVec.extractLsb', Nat.shiftRight_eq_div_pow]
theorem chField_eq_ofNat : chField w = BitVec.ofNat 3 (w.toNat / 2 ^ 26) := by
  rw [chField, BitVec.extractLsb', Nat.shiftRight_eq_div_pow]
theorem waveField_eq_ofNat : waveField w = BitVec.ofNat 3 (w.toNat / 2 ^ 23) := by
  rw [waveField, BitVec.extractLsb', Nat.shiftRight_eq_div_pow]
theorem envField_eq_ofNat : envField w = BitVec.ofNat 3 (w.toNat / 2 ^ 20) := by
  rw [envField, BitVec.extractLsb', Nat.shiftRight_eq_div_pow]
theorem pitchField_eq_ofNat : pitchField w = BitVec.ofNat 7 (w.toNat / 2 ^ 13) := by
  rw [pitchField, BitVec.extractLsb', Nat.shiftRight_eq_div_pow]
theorem lengthField_eq_ofNat : lengthField w = BitVec.ofNat 7 (w.toNat / 2 ^ 6) := by
  rw [lengthField, BitVec.extractLsb', Nat.shiftRight_eq_div_pow]
theorem selField_eq_ofNat : selField w = BitVec.ofNat 2 (w.toNat / 2 ^ 24) := by
  rw [selField, BitVec.extractLsb', Nat.shiftRight_eq_div_pow]

end fields

/-- The opcode is the top of the word, so as a number it is the plain quotient. -/
theorem opField_eq_seven_iff (w : Word) : opField w = 7#3 ↔ w.toNat / 2 ^ 29 = 7 := by
  rw [opField_eq_ofNat, ← BitVec.toNat_inj, BitVec.toNat_ofNat, BitVec.toNat_ofNat]
  omega

/-- Words that agree under a mask agree in every field the mask covers. -/
theorem extractLsb'_eq_of_and_eq {w w' m : Word} (h : w &&& m = w' &&& m) {start len : Nat}
    (hm : m.extractLsb' start len = BitVec.allOnes len) : w'.extractLsb' start len = w.extractLsb' start len :=
  calc w'.extractLsb' start len
      = (w' &&& m).extractLsb' start len := by rw [BitVec.extractLsb'_and, hm, BitVec.and_allOnes]
    _ = (w &&& m).extractLsb' start len := by rw [h]
    _ = w.extractLsb' start len := by rw [BitVec.extractLsb'_and, hm, BitVec.and_allOnes]

/-! ## The command a word stands for (R72, R81) -/

/-- The word carries the command's opcode, its sub-opcode and its operands: one line of R81's pseudocode per command. -/
def Instr.Fits (w : Word) : Instr → Prop
  | .nop => opField w = 0#3
  | .configure ch wave pitch env length =>
    opField w = 1#3 ∧ chField w = ch ∧ waveField w = wave ∧ pitchField w = pitch ∧ envField w = env ∧ lengthField w = length
  | .start ch => opField w = 2#3 ∧ chField w = ch
  | .stop ch => opField w = 3#3 ∧ chField w = ch
  | .playNote wave pitch env length =>
    opField w = 4#3 ∧ waveField w = wave ∧ pitchField w = pitch ∧ envField w = env ∧ lengthField w = length
  | .pause => opField w = 5#3
  | .nextRr => opField w = 6#3 ∧ selField w = 0#2
  | .nextMf => opField w = 6#3 ∧ selField w = 1#2
  | .readPitch ch => opField w = 6#3 ∧ selField w = 2#2 ∧ chField w = ch
  | .readLength ch => opField w = 6#3 ∧ selField w = 3#2 ∧ chField w = ch
  | .reserved => opField w = 7#3

/-- Format Q: all four sub-opcodes are assigned (R80). -/
theorem fits_decodeQuery {w : Word} (h6 : opField w = 6#3) : (decodeQuery w).Fits w := by
  unfold decodeQuery
  split; · next h => exact ⟨h6, h⟩
  split; · next h => exact ⟨h6, h⟩
  split; · next h => exact ⟨h6, h, rfl⟩
  have h : selField w = 3#2 := by bv_omega
  exact ⟨h6, h, rfl⟩

/-- A word carries the fields of the command it decodes to. -/
theorem fits_decode (w : Word) : (decode w).Fits w := by
  unfold decode
  split; · next h => exact h
  split; · next h => exact ⟨h, rfl, rfl, rfl, rfl, rfl⟩
  split; · next h => exact ⟨h, rfl⟩
  split; · next h => exact ⟨h, rfl⟩
  split; · next h => exact ⟨h, rfl, rfl, rfl, rfl⟩
  split; · next h => exact h
  split; · next h => exact fits_decodeQuery h
  have h : opField w = 7#3 := by bv_omega
  exact h

theorem Instr.Fits.decode_eq {w : Word} {i : Instr} (h : i.Fits w) : decode w = i := by
  cases i <;> simp only [Instr.Fits] at h <;> simp only [decode, decodeQuery, h] <;> rfl

/-- The decoder's whole behaviour: a word decodes to the command whose fields it carries, and to no other. -/
theorem decode_eq_iff {w : Word} {i : Instr} : decode w = i ↔ i.Fits w :=
  ⟨fun h => h ▸ fits_decode w, Instr.Fits.decode_eq⟩

/-! ## The encoder (R86) -/

/-- Appending as arithmetic: the high part is shifted up past the low one. -/
theorem toNat_append_eq_add {m n : Nat} (x : BitVec m) (y : BitVec n) : (x ++ y).toNat = x.toNat * 2 ^ n + y.toNat := by
  rw [BitVec.toNat_append, ← Nat.shiftLeft_add_eq_or_of_lt y.isLt, Nat.shiftLeft_eq]

/-- A command's word carries the command's fields: each field is a quotient and remainder of the word's positional sum. -/
theorem fits_encode (i : Instr) : i.Fits (encode i) := by
  cases i <;>
    simp only [Instr.Fits, encode, opField_eq_ofNat, chField_eq_ofNat, waveField_eq_ofNat, envField_eq_ofNat,
      pitchField_eq_ofNat, lengthField_eq_ofNat, selField_eq_ofNat, ← BitVec.toNat_inj, BitVec.toNat_ofNat,
      toNat_append_eq_add] <;>
    omega

/-- Settles O1: the word carries the command's fields, and these determine what it decodes to. -/
theorem decodeOfEncodeIsIdentity : Obligations.DecodeOfEncodeIsIdentity := fun i => (fits_encode i).decode_eq

/-- Settles O3: `++` is a shift of its left side and an OR, and the shifts distribute over the ORs. -/
theorem wordIsOrOfShiftedFields : Obligations.WordIsOrOfShiftedFields := by
  refine ⟨fun ch wave pitch env length => ?_, fun wave pitch env length => ?_, fun ch => ?_, fun ch => ?_, rfl, rfl,
    fun ch => ?_, fun ch => ?_, rfl, rfl, rfl⟩
  all_goals
    simp only [encode, BitVec.toNat_append, BitVec.toNat_ofNat, Nat.shiftLeft_or_distrib, ← Nat.shiftLeft_add]
    simp

/-! ## What a format's mask keeps of a word (R73 to R77, R79) -/

/-- A slice under a mask in two parts is its two slices, each under its part. -/
theorem extractLsb'_and_append {m n : Nat} (w : Word) (start : Nat) (a : BitVec m) (b : BitVec n) :
    w.extractLsb' start (m + n) &&& (a ++ b) = (w.extractLsb' (start + n) m &&& a) ++ (w.extractLsb' start n &&& b) := by
  rw [← BitVec.and_append, BitVec.extractLsb'_append_extractLsb'_eq_extractLsb' (by rfl)]

section masks
variable (w : Word)

/-- Format Z: the opcode. -/
theorem and_maskZ : w &&& 0xE0000000#32 = opField w ++ 0#29 :=
  calc w &&& 0xE0000000#32
      = w.extractLsb' 0 (3 + 29) &&& (BitVec.allOnes 3 ++ 0#29) := by rw [BitVec.extractLsb'_eq_self]; rfl
    _ = opField w ++ 0#29 := by simp only [extractLsb'_and_append, BitVec.and_allOnes, BitVec.and_zero]; rfl

/-- Format C: the opcode and the channel. -/
theorem and_maskC : w &&& 0xFC000000#32 = opField w ++ chField w ++ 0#26 :=
  calc w &&& 0xFC000000#32
      = w.extractLsb' 0 (3 + 3 + 26) &&& (BitVec.allOnes 3 ++ BitVec.allOnes 3 ++ 0#26) := by
        rw [BitVec.extractLsb'_eq_self]; rfl
    _ = opField w ++ chField w ++ 0#26 := by
        simp only [extractLsb'_and_append, BitVec.and_allOnes, BitVec.and_zero]; rfl

/-- Format Q with a channel. -/
theorem and_maskQ : w &&& 0xFF000000#32 = opField w ++ chField w ++ selField w ++ 0#24 :=
  calc w &&& 0xFF000000#32
      = w.extractLsb' 0 (3 + 3 + 2 + 24) &&& (BitVec.allOnes 3 ++ BitVec.allOnes 3 ++ BitVec.allOnes 2 ++ 0#24) := by
        rw [BitVec.extractLsb'_eq_self]; rfl
    _ = opField w ++ chField w ++ selField w ++ 0#24 := by
        simp only [extractLsb'_and_append, BitVec.and_allOnes, BitVec.and_zero]; rfl

/-- Format Q for NEXT_RR and NEXT_MF, whose channel bits are reserved. -/
theorem and_maskQ_noChannel : w &&& 0xE3000000#32 = opField w ++ 0#3 ++ selField w ++ 0#24 :=
  calc w &&& 0xE3000000#32
      = w.extractLsb' 0 (3 + 3 + 2 + 24) &&& (BitVec.allOnes 3 ++ 0#3 ++ BitVec.allOnes 2 ++ 0#24) := by
        rw [BitVec.extractLsb'_eq_self]; rfl
    _ = opField w ++ 0#3 ++ selField w ++ 0#24 := by
        simp only [extractLsb'_and_append, BitVec.and_allOnes, BitVec.and_zero]; rfl

/-- Format V: all but the low six bits. -/
theorem and_maskV : w &&& 0xFFFFFFC0#32
    = opField w ++ chField w ++ waveField w ++ envField w ++ pitchField w ++ lengthField w ++ 0#6 :=
  calc w &&& 0xFFFFFFC0#32
      = w.extractLsb' 0 (3 + 3 + 3 + 3 + 7 + 7 + 6) &&& (BitVec.allOnes 3 ++ BitVec.allOnes 3 ++ BitVec.allOnes 3 ++
          BitVec.allOnes 3 ++ BitVec.allOnes 7 ++ BitVec.allOnes 7 ++ 0#6) := by rw [BitVec.extractLsb'_eq_self]; rfl
    _ = opField w ++ chField w ++ waveField w ++ envField w ++ pitchField w ++ lengthField w ++ 0#6 := by
        simp only [extractLsb'_and_append, BitVec.and_allOnes, BitVec.and_zero]; rfl

/-- Format N: format V with reserved channel bits. -/
theorem and_maskN : w &&& 0xE3FFFFC0#32
    = opField w ++ 0#3 ++ waveField w ++ envField w ++ pitchField w ++ lengthField w ++ 0#6 :=
  calc w &&& 0xE3FFFFC0#32
      = w.extractLsb' 0 (3 + 3 + 3 + 3 + 7 + 7 + 6) &&& (BitVec.allOnes 3 ++ 0#3 ++ BitVec.allOnes 3 ++
          BitVec.allOnes 3 ++ BitVec.allOnes 7 ++ BitVec.allOnes 7 ++ 0#6) := by rw [BitVec.extractLsb'_eq_self]; rfl
    _ = opField w ++ 0#3 ++ waveField w ++ envField w ++ pitchField w ++ lengthField w ++ 0#6 := by
        simp only [extractLsb'_and_append, BitVec.and_allOnes, BitVec.and_zero]; rfl

end masks

/-- A word that carries a command's fields is the command's word in the bits the command uses. -/
theorem Instr.Fits.encode_eq {w : Word} {i : Instr} (h : i.Fits w) : encode i = w &&& i.usedBits := by
  cases i with
  | configure ch wave pitch env length =>
    obtain ⟨hop, rfl, rfl, rfl, rfl, rfl⟩ := h
    simp only [Instr.usedBits, and_maskV, hop, encode]
  | playNote wave pitch env length =>
    obtain ⟨hop, rfl, rfl, rfl, rfl⟩ := h
    simp only [Instr.usedBits, and_maskN, hop, encode]
  | start ch | stop ch =>
    obtain ⟨hop, rfl⟩ := h
    simp only [Instr.usedBits, and_maskC, hop, encode]
  | readPitch ch | readLength ch =>
    obtain ⟨hop, hsel, rfl⟩ := h
    simp only [Instr.usedBits, and_maskQ, hop, hsel, encode]
  | nextRr | nextMf =>
    obtain ⟨hop, hsel⟩ := h
    simp only [Instr.usedBits, and_maskQ_noChannel, hop, hsel, encode]
  | nop | pause | reserved =>
    have hop : opField w = _ := h
    simp only [Instr.usedBits, and_maskZ, hop, encode]

/-- Settles O2: a word carries the fields of the command it decodes to. -/
theorem encodeOfDecodeKeepsUsedBits : Obligations.EncodeOfDecodeKeepsUsedBits := fun w => (fits_decode w).encode_eq

/-- The encoder writes reserved bits 0. -/
theorem encode_and_usedBits (i : Instr) : encode i &&& i.usedBits = encode i := (fits_encode i).encode_eq.symm

/-! ## Reserved bits (R79) -/

/-- Every field a command carries lies in the bits it uses, so words that agree there carry the same command. -/
theorem Instr.Fits.of_and_eq {w w' : Word} {i : Instr} (hi : i.Fits w) (h : w &&& i.usedBits = w' &&& i.usedBits) :
    i.Fits w' := by
  cases i <;> simp only [Instr.usedBits] at h <;>
    simpa [Instr.Fits, opField, chField, waveField, pitchField, envField, lengthField, selField,
      extractLsb'_eq_of_and_eq h] using hi

/-- Settles O6: the decoded command is the same, and a step that presents the word runs the decoded command. -/
theorem reservedBitsAreIgnored : Obligations.ReservedBitsAreIgnored := by
  refine ⟨fun w w' h => ?_, fun i => ?_⟩
  · have hdec : decode w' = decode w := ((fits_decode w).of_and_eq h).decode_eq
    refine ⟨hdec, fun s => ?_⟩
    simp only [Machine.step_withFetchWord, BitVec.ofNat_toNat, BitVec.setWidth_eq, hdec]
  · rw [← encode_and_usedBits i, BitVec.and_assoc, BitVec.and_not_self]
    exact BitVec.and_zero

/-! ## The decoder as arithmetic (R81) and the reserved opcode (R80, R193) -/

/-- Settles O5: in each row of the pseudocode the word carries the fields of the row's command. -/
theorem decodeReadsUnsignedFields : Obligations.DecodeReadsUnsignedFields := by
  intro w
  have hop {k : Nat} (h : w.toNat / 2 ^ 29 = k) : opField w = BitVec.ofNat 3 k := h ▸ opField_eq_ofNat w
  have hsel : (selField w).toNat = w.toNat / 2 ^ 24 % 4 := by rw [selField_eq_ofNat, BitVec.toNat_ofNat]
  refine Instr.Fits.decode_eq ?_
  split
  · next h => exact hop h
  · next h =>
    exact ⟨hop h, chField_eq_ofNat w, waveField_eq_ofNat w, pitchField_eq_ofNat w, envField_eq_ofNat w,
      lengthField_eq_ofNat w⟩
  · next h => exact ⟨hop h, chField_eq_ofNat w⟩
  · next h => exact ⟨hop h, chField_eq_ofNat w⟩
  · next h => exact ⟨hop h, waveField_eq_ofNat w, pitchField_eq_ofNat w, envField_eq_ofNat w, lengthField_eq_ofNat w⟩
  · next h => exact hop h
  · next h =>
    split
    · next hs => exact ⟨hop h, BitVec.eq_of_toNat_eq (hsel.trans hs)⟩
    · next hs => exact ⟨hop h, BitVec.eq_of_toNat_eq (hsel.trans hs)⟩
    · next hs => exact ⟨hop h, BitVec.eq_of_toNat_eq (hsel.trans hs), chField_eq_ofNat w⟩
    · next h0 h1 h2 =>
      simp only [imp_false] at h0 h1 h2
      have hs : w.toNat / 2 ^ 24 % 4 = 3 := by omega
      exact ⟨hop h, BitVec.eq_of_toNat_eq (hsel.trans hs), chField_eq_ofNat w⟩
  · next h0 h1 h2 h3 h4 h5 h6 =>
    simp only [imp_false] at h0 h1 h2 h3 h4 h5 h6
    have hw : w.toNat / 2 ^ 29 = 7 := by omega
    exact (opField_eq_seven_iff w).2 hw

/-- Settles O7: `decode_eq_iff` at the reserved opcode, whose meaning is to leave the state as it is. -/
theorem reservedOpcodeHasNoEffect : Obligations.ReservedOpcodeHasNoEffect := by
  have hdec (w : Word) : decode w = .reserved ↔ w.toNat / 2 ^ 29 = 7 := decode_eq_iff.trans (opField_eq_seven_iff w)
  have hexec (s : Machine.State) : Machine.exec .reserved s = .next s := rfl
  exact ⟨hdec, fun w s h => (hdec w).2 h ▸ hexec s, hexec⟩

/-! ## The opcode table (R72) -/

/-- A command's word lies in the row with the command's mnemonic. -/
theorem encode_in_own_row : ∀ i : Instr, Laws.TableRow.Statement i
  | .nop => Laws.TableRow.nop
  | .configure ch wave pitch env length => Laws.TableRow.configure ch wave pitch env length
  | .start ch => Laws.TableRow.start ch
  | .stop ch => Laws.TableRow.stop ch
  | .playNote wave pitch env length => Laws.TableRow.playNote wave pitch env length
  | .pause => Laws.TableRow.pause
  | .nextRr => Laws.TableRow.nextRr
  | .nextMf => Laws.TableRow.nextMf
  | .readPitch ch => Laws.TableRow.readPitch ch
  | .readLength ch => Laws.TableRow.readLength ch
  | .reserved => Laws.TableRow.reserved

/-- The bits a row fixes are among those its command uses. -/
theorem usedBits_and_mask (i : Instr) :
    ∀ r ∈ opcodeTable, r.mnemonic = i.mnemonic → i.usedBits &&& r.mask = r.mask := by
  cases i <;> simp only [Instr.mnemonic, Instr.usedBits] <;> decide

/-- Two rows that agree on the bits both fix are one row. -/
theorem rows_disjoint :
    ∀ r ∈ opcodeTable, ∀ r' ∈ opcodeTable, r.fixed &&& r'.mask = r'.fixed &&& r.mask → r' = r := by decide

/-- Settles O4: the word of its command lies in the command's row, and the word agrees with it in the bits the row fixes; a
second row would agree with the first on the bits both fix. -/
theorem everyWordLiesInExactlyItsRow : Obligations.EveryWordLiesInExactlyItsRow := by
  intro w
  obtain ⟨r, hr, hname, hrow⟩ := encode_in_own_row (decode w)
  have hw : w &&& r.mask = r.fixed :=
    calc w &&& r.mask
        = w &&& (decode w).usedBits &&& r.mask := by rw [BitVec.and_assoc, usedBits_and_mask _ r hr hname]
      _ = r.fixed := by rw [← (fits_decode w).encode_eq, hrow]
  refine ⟨r, hr, hw, hname, fun r' hr' (hw' : w &&& r'.mask = r'.fixed) => rows_disjoint r hr r' hr' ?_⟩
  rw [← hw, ← hw', BitVec.and_assoc, BitVec.and_assoc, BitVec.and_comm r.mask]

end Sys2Proof
end

section
/-! The encoding family (30_encoding.md), the steps without a command (R82, R232) and the assembler (R84, R85). -/

namespace Sys2Proof.Machine

/-! ## A step without a command -/

theorem step_of_noCommand {s : State} {c : PortCycle} {rest : List PortCycle} (hi : s.inputs = c :: rest)
    (hr : c.rst = false) (hv : c.cmdValid = false) :
    step s = .next (if c.tick then tick (s.setInputs rest) else s.setInputs rest) := by
  cases ht : c.tick <;> simp [step, State.takeEvent, hi, PortCycle.firstEvent, hr, hv, ht]

theorem step_of_noInput {s : State} (hi : s.inputs = []) : step s = .next s := by
  simp only [step, State.takeEvent, hi]

/-- Settles O10: a cycle with a TICK strobe, an idle cycle and no cycle at all. -/
theorem stepTicksOrWaits : Obligations.StepTicksOrWaits := ⟨fun _ _ _ => step_of_noCommand, fun _ => step_of_noInput⟩

/-! ## The assembler's operands (R84) -/

/-- A field takes an integer operand modulo its size. -/
theorem toNat_ofInt_eq_emod (n : Nat) (a : Int) : ((BitVec.ofInt n a).toNat : Int) = a % (2 ^ n : Nat) := by
  rw [BitVec.toNat_ofInt, Int.toNat_of_nonneg (Int.emod_nonneg _ (by positivity))]

/-- An operand inside its field's range is encoded as given. -/
theorem toNat_ofInt_of_lt {n : Nat} {a : Int} (h0 : 0 ≤ a) (h : a < (2 ^ n : Nat)) : ((BitVec.ofInt n a).toNat : Int) = a := by
  rw [toNat_ofInt_eq_emod, Int.emod_eq_of_lt h0 h]

theorem channelOperand_toNat (ch : Int) : ((channelOperand ch).toNat : Int) = ch % 8 := toNat_ofInt_eq_emod 3 ch

theorem noteOperandsOk_iff {wave pitch env length : Int} : noteOperandsOk wave pitch env length = true ↔
    (0 ≤ pitch ∧ pitch ≤ 127) ∧ (0 ≤ length ∧ length ≤ 127) ∧ (0 ≤ wave ∧ wave ≤ 7) ∧ (0 ≤ env ∧ env ≤ 7) := by
  simp only [noteOperandsOk, selectorOk, tableIndexOk, Bool.and_eq_true, decide_eq_true_eq]
  tauto

/-- The assembler makes the words of a line exactly when the line is well-formed. -/
theorem assembleCmd_eq_some_iff {c : AsmCmd} {ws : List Word} :
    assembleCmd c = some ws ↔ c.wellFormed = true ∧ (asmCommands c).map encode = ws := by
  simp only [assembleCmd, Option.ite_none_right_eq_some, Option.some.injEq]

theorem assembleCmd_of_not_wellFormed {c : AsmCmd} (h : ¬c.wellFormed = true) : assembleCmd c = none := if_neg h

/-- Settles O53: operands inside their ranges are encoded as given, the channel modulo 8; the ranges are `noteOperandsOk`. -/
theorem assemblerMasksChannelsAndRefusesTheRest : Obligations.AssemblerMasksChannelsAndRefusesTheRest := by
  refine fun ch wave pitch env length => ⟨fun h => ?_, fun h => ?_, ?_⟩
  · have hok := noteOperandsOk_iff.2 h
    obtain ⟨⟨hp0, hp⟩, ⟨hl0, hl⟩, ⟨hw0, hw⟩, ⟨he0, he⟩⟩ := h
    exact ⟨channelOperand ch, .ofInt 3 wave, .ofInt 7 pitch, .ofInt 3 env, .ofInt 7 length, channelOperand_toNat ch,
      toNat_ofInt_of_lt hw0 (by omega), toNat_ofInt_of_lt hp0 (by omega), toNat_ofInt_of_lt he0 (by omega),
      toNat_ofInt_of_lt hl0 (by omega), assembleCmd_eq_some_iff.2 ⟨hok, rfl⟩, assembleCmd_eq_some_iff.2 ⟨hok, rfl⟩⟩
  · have hok := noteOperandsOk_iff.not.2 h
    exact ⟨assembleCmd_of_not_wellFormed hok, assembleCmd_of_not_wellFormed hok⟩
  · exact ⟨channelOperand ch, channelOperand_toNat ch, rfl, rfl, rfl, rfl⟩

/-! ## Pseudo-instructions (R85) -/

/-- NOTE's operands are checked as CONFIGURE's, and its words are CONFIGURE's and START's. -/
theorem assembleCmd_note {ch wave pitch env length : Int} {ws : List Word}
    (h : assembleCmd (.configure ch wave pitch env length) = some ws) :
    assembleCmd (.note ch wave pitch env length) = some (ws ++ [encode (.start (channelOperand ch))]) := by
  obtain ⟨hok, rfl⟩ := assembleCmd_eq_some_iff.1 h
  exact assembleCmd_eq_some_iff.2 ⟨hok, rfl⟩

/-- Settles O54: NOTE by its operands' check; STOPALL and the text RESUME by running the assembler. -/
theorem pseudoInstructionsExpand : Obligations.PseudoInstructionsExpand := by
  refine ⟨fun ch wave pitch env length ws h => ⟨encode (.start (channelOperand ch)), rfl, assembleCmd_note h, ?_⟩, rfl, rfl⟩
  obtain ⟨-, rfl⟩ := assembleCmd_eq_some_iff.1 h
  rfl

end Sys2Proof.Machine
end

section
/-! The voice configuration family (40_voice_config.md): operands (R100, R101), CONFIGURE, START, STOP and PLAY_NOTE on the
Voice Bank (R102 to R105), the two-run form of R107, and silence as a step invariant (R106, R231). -/

namespace Sys2Proof.Machine

/-! ## Silence under the register updates and the commands (R106) -/

/-- A scaled sample under amplitude 0 (R139). -/
theorem contribution_of_amp_zero (r : Roms) {x : Voice} (h : x.amp = 0#8) : x.contribution r = 0 := by
  simp [Voice.contribution, scaleSample, floorShift, h]

/-- The turn of a finished voice with AMP 0 writes what it finds (R132). -/
theorem envelopeStep_of_silent (r : Roms) {x : Voice} (hf : x.finished = true) (ha : x.amp = 0#8) :
    x.envelopeStep r = x := by
  rw [envelopeStep_of_finished r x ((finished_iff x).1 hf), ← ha]

/-- Of the commands that start no voice, CONFIGURE keeps EACC and STOP puts it at the sentinel, so a finished voice stays
finished (R102, R104). -/
theorem afterCommand_finished {i : Instr} (hi : startsVoice i = false) {s : State} {v : Channel}
    (h : (s.voice v).finished = true) : ((afterCommand i s).voice v).finished = true := by
  cases i with
  | start ch => exact nomatch hi
  | playNote wave pitch env length => exact nomatch hi
  | configure ch wave pitch env length =>
    rw [afterCommand_configure, modifyVoice_voice]
    split
    · next hv => exact hv ▸ h
    · exact h
  | stop ch =>
    rw [afterCommand_stop, modifyVoice_voice]
    split
    · exact (finished_iff _).2 (Nat.le_refl _)
    · exact h
  | _ => exact h

theorem silent_reset : Silent State.reset := fun v => by
  rw [reset_voice]
  decide

namespace Silent

variable {s : State}

theorem setInputs (h : Silent s) (l : List PortCycle) : Silent (s.setInputs l) := h

theorem afterCommand (h : Silent s) {i : Instr} (hi : startsVoice i = false) : Silent (afterCommand i s) := fun v =>
  ⟨afterCommand_finished hi (h v).1, (afterCommand_amp i s v).trans (h v).2⟩

theorem mixSum_eq_zero (h : Silent s) (r : Roms) : mixSum r s = 0 := by
  refine List.sum_eq_zero fun c hc => ?_
  obtain ⟨v, -, rfl⟩ := List.mem_map.1 hc
  exact contribution_of_amp_zero r (h v).2

/-- A running TICK moves the phase of a silent voice and nothing else of it. -/
theorem tick_voice (h : Silent s) (hp : s.paused = false) (v : Channel) :
    (tick s).voice v = (s.voice v).phaseStep := by
  rw [Machine.tick_voice hp, envelopeStep_of_silent _ (h v).1 (h v).2, ite_self]

/-- A TICK keeps silence: the phase step writes neither EACC nor AMP (R137). -/
theorem tick (h : Silent s) : Silent (tick s) := by
  cases hp : s.paused with
  | true => rwa [tick_of_paused hp]
  | false =>
    intro v
    rw [h.tick_voice hp]
    exact h v

/-- A running TICK of a silent block outputs the bias of the empty mix (R141, R142). -/
theorem tick_out (h : Silent s) (hp : s.paused = false) : (Machine.tick s).out = 127#8 := by
  rw [Machine.tick_out hp, h.tick.mixSum_eq_zero]
  decide

end Silent

/-- Settles O49: each kind of step that starts no voice keeps silence and mid-scale. -/
theorem onlyStartingAVoiceEndsSilence : Obligations.OnlyStartingAVoiceEndsSilence := by
  intro s t hs hout h hcmd
  obtain ⟨-, rfl⟩ | ⟨c, rest, hin, ⟨-, rfl⟩ | ⟨hr, hv, rfl⟩ | ⟨-, -, -, rfl⟩ | ⟨-, -, -, rfl⟩⟩ := step_cases h
  · exact ⟨hs, hout⟩
  · exact ⟨silent_reset.setInputs rest, rfl⟩
  · exact ⟨(hs.setInputs _).afterCommand (hcmd c rest hin hr hv), (afterCommand_out _ _).trans hout⟩
  · refine ⟨(hs.setInputs rest).tick, ?_⟩
    cases hp : s.paused with
    | true => rwa [tick_of_paused (s := s.setInputs rest) hp]
    | false => exact (hs.setInputs rest).tick_out hp
  · exact ⟨hs.setInputs rest, hout⟩

/-! ## Operands (R100, R101, R105) -/

theorem resolveWave_toNat (w : BitVec 3) : (resolveWave w).toNat = if w.toNat ≤ 4 then w.toNat else 0 := by
  rw [resolveWave, apply_ite BitVec.toNat]
  rfl

theorem resolveEnv_toNat (e : BitVec 3) : (resolveEnv e).toNat = if e.toNat ≤ 3 then e.toNat else 0 := by
  have hle : e ≤ 3#3 ↔ e.toNat ≤ 3 := Iff.rfl
  rw [resolveEnv]
  simp only [hle]
  split
  · exact (BitVec.toNat_setWidth 2 e).trans (Nat.mod_eq_of_lt (by omega))
  · rfl

/-- An unrecognised waveform id resolves as 0 does. -/
theorem resolveWave_of_unrecognised {w : BitVec 3} (h : 4 < w.toNat) : resolveWave w = resolveWave 0 :=
  if_neg (Nat.not_le.2 h)

/-- An unrecognised envelope id resolves as 0 does. -/
theorem resolveEnv_of_unrecognised {e : BitVec 3} (h : 3 < e.toNat) : resolveEnv e = resolveEnv 0 :=
  if_neg (Nat.not_le.2 h)

theorem nextChannel_toNat (c : Channel) : (nextChannel c).toNat = (c.toNat + 1) % 8 := BitVec.toNat_add c 1#3

theorem eq_nextChannel {c v : Channel} (h : v.toNat = (c.toNat + 1) % 8) : v = nextChannel c :=
  BitVec.eq_of_toNat_eq (h.trans (nextChannel_toNat c).symm)

/-- RESP shows a channel as its number. -/
theorem zext8_channel_toNat (c : Channel) : (zext8 c).toNat = c.toNat := BitVec.toNat_setWidth_of_le (by decide)

/-! ## The commands read their selectors through `resolveWave` and `resolveEnv` alone (R101) -/

section selectors
variable {w w' e e' : BitVec 3} (hw : resolveWave w = resolveWave w') (he : resolveEnv e = resolveEnv e')
include hw he

theorem arm_congr (r : Roms) (p l : Index7) : Voice.arm r w p e l = Voice.arm r w' p e' l := by
  funext x
  rw [Voice.arm, hw, he]
  rfl

theorem exec_configure_congr (ch : Channel) (p l : Index7) (s : State) :
    exec (.configure ch w p e l) s = exec (.configure ch w' p e' l) s := by
  rw [exec_eq_afterCommand, exec_eq_afterCommand, afterCommand_configure, afterCommand_configure, arm_congr hw he]

theorem exec_playNote_congr (p l : Index7) (s : State) :
    exec (.playNote w p e l) s = exec (.playNote w' p e' l) s := by
  rw [exec_eq_afterCommand, exec_eq_afterCommand, afterCommand_playNote, afterCommand_playNote, arm_congr hw he]

end selectors

/-- Settles O16: the resolved values as numbers, and commands whose selectors resolve alike are alike. -/
theorem unrecognisedSelectorsFallBack : Obligations.UnrecognisedSelectorsFallBack := by
  refine ⟨resolveWave_toNat, resolveEnv_toNat, fun ch w e p l s => ⟨fun h => ?_, fun h => ?_⟩⟩
  · have hw := resolveWave_of_unrecognised h
    exact ⟨exec_configure_congr hw rfl ch p l s, exec_playNote_congr hw rfl p l s⟩
  · have he := resolveEnv_of_unrecognised h
    exact ⟨exec_configure_congr rfl he ch p l s, exec_playNote_congr rfl he p l s⟩

/-! ## What each command does to the Voice Bank (R102 to R105) -/

/-- Two changes of one voice are one change. -/
theorem modifyVoice_modifyVoice (s : State) (v : Channel) (f g : Voice → Voice) :
    (s.modifyVoice v f).modifyVoice v g = s.modifyVoice v fun x => g (f x) := by
  refine state_ext (fun u => ?_) rfl rfl rfl rfl rfl rfl
  by_cases h : u = v
  · rw [h, modifyVoice_voice_self, modifyVoice_voice_self, modifyVoice_voice_self]
  · rw [modifyVoice_voice_of_ne _ _ h, modifyVoice_voice_of_ne _ _ h, modifyVoice_voice_of_ne _ _ h]

/-- PLAY_NOTE as one change of one voice. -/
theorem afterCommand_playNote_eq (wave : BitVec 3) (pitch : Index7) (env : BitVec 3) (length : Index7) (s : State) :
    afterCommand (.playNote wave pitch env length) s
      = ((s.modifyVoice (nextChannel s.last) fun x => (x.arm Config.roms wave pitch env length).restart).setLast
          (nextChannel s.last)).setResp (zext8 (nextChannel s.last)) := by
  rw [afterCommand_playNote, modifyVoice_modifyVoice]

/-- Settles O14: the voice is changed by `arm`, and the rest is the frame of one voice's change. -/
theorem configureArmsItsVoiceOnly : Obligations.ConfigureArmsItsVoiceOnly := by
  refine fun ch wave pitch env length s => ⟨_, exec_eq_afterCommand _ s, ?_⟩
  rw [afterCommand_configure, modifyVoice_voice_self]
  exact ⟨resolveWave_toNat wave, resolveEnv_toNat env, rfl, rfl, rfl, rfl, rfl, rfl, rfl,
    fun u hu => modifyVoice_voice_of_ne s _ hu, rfl, rfl, rfl, rfl, rfl, rfl⟩

/-- Settles O15: `arm` after `arm` is the second `arm`, since both write the same registers. -/
theorem secondConfigureWins : Obligations.SecondConfigureWins := by
  refine fun ch w w' e e' p p' l l' s => ⟨_, exec_eq_afterCommand _ s, ?_⟩
  rw [exec_eq_afterCommand, exec_eq_afterCommand, afterCommand_configure, afterCommand_configure, afterCommand_configure,
    modifyVoice_modifyVoice]
  rfl

/-- Settles O17: the voice is changed by `restart`. -/
theorem startRestartsItsVoiceOnly : Obligations.StartRestartsItsVoiceOnly := by
  refine fun ch s => ⟨_, exec_eq_afterCommand _ s, ?_⟩
  rw [afterCommand_start, setLast_voice]
  exact ⟨modifyVoice_voice_self s ch Voice.restart, rfl, fun u hu => modifyVoice_voice_of_ne s _ hu,
    rfl, rfl, rfl, rfl, rfl⟩

/-- Settles O18: the voice is changed by `silence`. -/
theorem stopSetsTheSentinelOnly : Obligations.StopSetsTheSentinelOnly := by
  refine fun ch s => ⟨_, exec_eq_afterCommand _ s, ?_⟩
  rw [afterCommand_stop]
  exact ⟨modifyVoice_voice_self s ch Voice.silence, fun u hu => modifyVoice_voice_of_ne s _ hu,
    rfl, rfl, rfl, rfl, rfl, rfl⟩

/-- Settles O19: the voice is changed by `arm` and then `restart`. -/
theorem playNoteUsesTheNextChannel : Obligations.PlayNoteUsesTheNextChannel := by
  intro wave pitch env length s v hv
  obtain rfl := eq_nextChannel hv
  refine ⟨_, exec_eq_afterCommand _ s, ?_⟩
  simp only [afterCommand_playNote_eq, setResp_voice, setLast_voice, modifyVoice_voice_self]
  exact ⟨resolveWave_toNat wave, resolveEnv_toNat env, rfl, rfl, rfl, rfl, rfl, rfl, rfl, rfl,
    zext8_channel_toNat _, fun u hu => modifyVoice_voice_of_ne s _ hu, rfl, rfl, rfl, rfl⟩

/-- Settles O20: with the channel named as PLAY_NOTE finds it, both sides make the same register updates. -/
theorem playNoteIsConfigureThenStart : Obligations.PlayNoteIsConfigureThenStart := by
  intro wave pitch env length s v hv
  obtain rfl := eq_nextChannel hv
  refine ⟨_, runCommands_eq _ s, ?_⟩
  rw [exec_eq_afterCommand, afterCommand_playNote]
  rfl

/-- Settles O21: by induction from the right, so that the note added is the one that writes LAST and RESP last. -/
theorem playNotesRotateThroughChannels : Obligations.PlayNotesRotateThroughChannels := by
  intro notes s hnotes
  refine ⟨_, runCommands_eq notes s, ?_⟩
  induction notes using List.reverseRecOn with
  | nil => exact ⟨(Nat.mod_eq_of_lt s.last.isLt).symm, fun h => absurd rfl h⟩
  | append_singleton notes i ih =>
    obtain ⟨hlast, -⟩ := ih fun j hj => hnotes j (List.mem_append_left _ hj)
    obtain ⟨wave, pitch, env, length, rfl⟩ := hnotes i (by simp)
    rw [List.foldl_append, List.foldl_cons, List.foldl_nil, afterCommand_playNote, setResp_last, setLast_last,
      setResp_resp, nextChannel_toNat, hlast, List.length_append, List.length_singleton]
    exact ⟨by omega, fun _ => by rw [zext8_channel_toNat, nextChannel_toNat, hlast]⟩

/-! ## The voice commands and the engine (R107) -/

/-- The two states' voices differ in AMP at most. -/
def VoicesAgreeButAmp (s₁ s₂ : State) : Prop :=
  ∀ v, { s₁.voice v with amp := 0#8 } = { s₂.voice v with amp := 0#8 }

/-- A change of one voice that does not read AMP, and writes it nowhere, keeps the agreement. -/
theorem VoicesAgreeButAmp.modifyVoice {s₁ s₂ : State} (h : VoicesAgreeButAmp s₁ s₂) (v : Channel) {f : Voice → Voice}
    (hf : ∀ x : Voice, { f x with amp := 0#8 } = f { x with amp := 0#8 }) :
    VoicesAgreeButAmp (s₁.modifyVoice v f) (s₂.modifyVoice v f) := by
  intro u
  rw [modifyVoice_voice, modifyVoice_voice]
  split
  · rw [hf, hf, h v]
  · exact h u

/-- Settles O22: `arm`, `restart` and `silence` do not read AMP, and PLAY_NOTE's channel comes from LAST; what the commands
do not write is said by the frame lemmas of the state family. -/
theorem voiceCommandsNeitherReadNorWriteTheEngine : Obligations.VoiceCommandsNeitherReadNorWriteTheEngine := by
  intro i s₁ s₂ hi (hv : VoicesAgreeButAmp s₁ s₂) hlast hresp
  refine ⟨_, _, exec_eq_afterCommand i s₁, exec_eq_afterCommand i s₂, ?_⟩
  obtain ⟨ch, w, p, e, l, rfl⟩ | ⟨ch, rfl⟩ | ⟨ch, rfl⟩ | ⟨w, p, e, l, rfl⟩ := hi
  · exact ⟨hv.modifyVoice ch fun _ => rfl, hlast, hresp, rfl, rfl, rfl, afterCommand_amp _ s₁⟩
  · exact ⟨hv.modifyVoice ch fun _ => rfl, rfl, hresp, rfl, rfl, rfl, afterCommand_amp _ s₁⟩
  · exact ⟨hv.modifyVoice ch fun _ => rfl, hlast, hresp, rfl, rfl, rfl, afterCommand_amp _ s₁⟩
  · refine ⟨?_, ?_, ?_, rfl, rfl, rfl, afterCommand_amp _ s₁⟩ <;>
      rw [afterCommand_playNote_eq, afterCommand_playNote_eq, hlast]
    · exact hv.modifyVoice _ (f := fun x => (x.arm Config.roms w p e l).restart) fun _ => rfl
    · rfl
    · rfl

end Sys2Proof.Machine
end

section
/-! The sample engine family (41_sample_engine.md), one TICK: the envelope step's registers as numbers (R132 to R134), what a
TICK keeps of a voice (R143), the mixer's arithmetic (R138 to R142), and the two-run form of R144. -/

namespace Sys2Proof.Machine

/-! ## The envelope step in numbers (R132 to R134) -/

section envelope
variable (r : Roms) {x : Voice}

theorem envelopeStep_eacc_of_finished (h : 0x8000 ≤ x.eacc.toNat) : (x.envelopeStep r).eacc = x.eacc := by
  rw [envelopeStep_of_finished r x h]

theorem envelopeStep_amp_of_finished (h : 0x8000 ≤ x.eacc.toNat) : (x.envelopeStep r).amp = 0#8 := by
  rw [envelopeStep_of_finished r x h]

/-- A running voice adds EINC, and the sum saturates at 16 bits. -/
theorem envelopeStep_eacc_of_running (h : x.eacc.toNat < 0x8000) :
    (x.envelopeStep r).eacc.toNat = min (x.eacc.toNat + x.einc.toNat) 0xFFFF := by
  have hsum : x.envelopeSum = x.eacc.toNat + x.einc.toNat := rfl
  by_cases ht : x.envelopeSum < 0x8000
  · rw [envelopeStep_of_running r x ht, BitVec.toNat_add]
    omega
  · rw [envelopeStep_of_crossing r x h (Nat.not_lt.1 ht), BitVec.toNat_ofNat]
    omega

theorem envelopeStep_amp_of_crossing (h : x.eacc.toNat < 0x8000) (ht : 0x8000 ≤ x.eacc.toNat + x.einc.toNat) :
    (x.envelopeStep r).amp = 0#8 := by
  rw [envelopeStep_of_crossing r x h ht]

/-- Below the sentinel the sum's integer part is at most 127, so the table read is the entry at exactly that index. -/
theorem envelopeStep_amp_of_running {j : Fin 512} (ht : x.eacc.toNat + x.einc.toNat < 0x8000)
    (hj : j.val = x.esel.toNat * 128 + (x.eacc.toNat + x.einc.toNat) / 256) : (x.envelopeStep r).amp = r.env j := by
  have hsum : x.envelopeSum = x.eacc.toNat + x.einc.toNat := rfl
  have hindex : x.esel.toNat * 128 + (BitVec.ofNat 7 (x.envelopeSum >>> 8)).toNat = j.val := by
    rw [hj, BitVec.toNat_ofNat, Nat.shiftRight_eq_div_pow, hsum]
    omega
  rw [envelopeStep_of_running r x ht]
  exact congrArg r.env (Fin.ext hindex)

end envelope

/-! ## What a TICK keeps of a voice (R143) -/

/-- What neither the envelope step nor the phase step writes, no TICK writes. -/
theorem tick_keeps {α : Type} {g : Voice → α} (henv : ∀ x, g (x.envelopeStep Config.roms) = g x)
    (hphase : ∀ x, g x.phaseStep = g x) (s : State) (v : Channel) : g ((tick s).voice v) = g (s.voice v) := by
  cases hp : s.paused with
  | true => rw [tick_of_paused hp]
  | false =>
    rw [tick_voice hp, hphase]
    split
    · exact henv _
    · rfl

/-- Settles O43: the frame of TICK, register by register. -/
theorem tickFrame : Obligations.TickFrame := fun s =>
  ⟨tick_resp s, tick_last s, tick_paused s, tick_inputs s, fun v =>
    ⟨tick_wsel s v, tick_keeps (envelopeStep_esel _) phaseStep_esel s v, tick_keeps (envelopeStep_pinc _) phaseStep_pinc s v,
      tick_keeps (envelopeStep_einc _) phaseStep_einc s v, tick_keeps (envelopeStep_pitch _) phaseStep_pitch s v,
      tick_keeps (envelopeStep_len _) phaseStep_len s v⟩⟩

/-! ## One TICK (R130 to R137) -/

/-- Settles O38: the step is the TICK, and a TICK while paused is nothing. -/
theorem pausedTickIsDropped : Obligations.PausedTickIsDropped := by
  refine ⟨fun s => tick_of_paused, fun s c rest hp hi hr hv ht => ?_⟩
  rw [step_of_noCommand hi hr hv, if_pos ht, tick_of_paused (s := s.setInputs rest) hp]
  rfl

/-- A voice whose turn it is, after the TICK. -/
theorem tick_voice_of_turn {s : State} (hp : s.paused = false) :
    (tick s).voice (nextChannel s.cursor) = ((s.voice (nextChannel s.cursor)).envelopeStep Config.roms).phaseStep := by
  rw [tick_voice hp]
  exact congrArg Voice.phaseStep (if_pos rfl)

/-- A voice whose turn it is not, after the TICK. -/
theorem tick_voice_of_ne {s : State} {u : Channel} (hp : s.paused = false) (hu : u ≠ nextChannel s.cursor) :
    (tick s).voice u = (s.voice u).phaseStep := by
  rw [tick_voice hp]
  exact congrArg Voice.phaseStep (if_neg hu)

/-- Settles O39: the voice that the advanced cursor names takes the envelope step, every other one the phase step alone. -/
theorem tickStepsOneEnvelope : Obligations.TickStepsOneEnvelope := by
  intro s v hp hv
  obtain rfl := eq_nextChannel hv
  rw [tick_voice_of_turn hp]
  refine ⟨tick_cursor hp, fun h => ⟨envelopeStep_eacc_of_finished _ h, envelopeStep_amp_of_finished _ h⟩,
    fun t h ht => ?_, fun u hu => ?_⟩
  · subst ht
    exact ⟨envelopeStep_eacc_of_running _ h, envelopeStep_amp_of_crossing _ h,
      fun hlt j => envelopeStep_amp_of_running Config.roms hlt⟩
  · rw [tick_voice_of_ne hp hu]
    exact ⟨rfl, rfl⟩

/-- The phase of a voice after a running TICK: the envelope step, taken or not, writes neither PACC nor PINC. -/
theorem tick_pacc {s : State} (hp : s.paused = false) (v : Channel) :
    ((tick s).voice v).pacc = (s.voice v).pacc + (s.voice v).pinc := by
  rw [tick_voice hp, phaseStep_pacc]
  split
  · rw [envelopeStep_pacc, envelopeStep_pinc]
  · rfl

/-- Settles O40. -/
theorem tickStepsEveryPhase : Obligations.TickStepsEveryPhase := fun s v hp => by
  rw [tick_pacc hp, BitVec.toNat_add]

/-! ## The mixer (R138 to R142) -/

/-- An arithmetic right shift is floor division by the power of two (00_scope.md R11). -/
theorem floorShift_eq_fdiv (a : Int) (n : Nat) : floorShift a n = Int.fdiv a (2 ^ n : Nat) := by
  rw [floorShift, Int.shiftRight_eq_div_pow, Int.fdiv_eq_ediv_of_nonneg a (Int.natCast_nonneg _)]

theorem scaleSample_eq_fdiv (x : Int) (a : Byte) : scaleSample x a = Int.fdiv (x * a.toNat) 256 :=
  floorShift_eq_fdiv _ 8

theorem outputSample_eq_fdiv (sum : Int) : outputSample sum = BitVec.ofInt 8 (Int.fdiv sum 4 + 127) := by
  rw [outputSample, trunc8, floorShift_eq_fdiv]
  rfl

/-- Settles O41: OUT is the mix of the voices the TICK leaves, and each legal selector reads an entry that exists. -/
theorem tickOutputsTheMix : Obligations.TickOutputsTheMix := by
  intro s idx hp hs hidx
  have hcontribution (v : Channel) : ((tick s).voice v).contribution Config.roms
      = Int.fdiv ((Config.waveRom (idx v)).toInt * ((tick s).voice v).amp.toNat) 256 := by
    have hentry : (⟨_, waveIndex_lt (hs.tick.1 v) ((tick s).voice v).pacc⟩ : Fin 1280) = idx v :=
      Fin.ext (by simp only [hidx, tick_wsel])
    rw [Voice.contribution, scaleSample_eq_fdiv, sample_of_wsel_le _ (hs.tick.1 v), hentry]
    rfl
  rw [tick_out hp, outputSample_eq_fdiv, mixSum, funext hcontribution]
  rfl

section ranges
variable (r : Roms)

/-- A signed byte times an unsigned one. -/
theorem product_bounds (x : Voice) :
    -32640 ≤ x.sample r * x.amp.toNat ∧ x.sample r * x.amp.toNat ≤ 32385 := by
  have hlo : -128 ≤ x.sample r := BitVec.le_toInt _
  have hhi : x.sample r ≤ 127 := Int.le_of_lt_add_one (BitVec.toInt_lt (w := 8))
  have hamp : (x.amp.toNat : Int) ≤ 255 := by omega
  have hnonneg : (0 : Int) ≤ x.amp.toNat := Int.natCast_nonneg _
  constructor <;> nlinarith

theorem contribution_bounds (x : Voice) : -128 ≤ x.contribution r ∧ x.contribution r ≤ 126 := by
  obtain ⟨hlo, hhi⟩ := product_bounds r x
  rw [Voice.contribution, scaleSample_eq_fdiv, Int.fdiv_eq_ediv_of_nonneg _ (by decide)]
  omega

theorem mixSum_eq_sum (s : State) : mixSum r s = ∑ v : Fin 8, (s.voices[v]).contribution r := by
  rw [Fin.sum_univ_eight]
  simp [mixSum, channels, State.voice, add_assoc]

theorem mixSum_bounds (s : State) : -1024 ≤ mixSum r s ∧ mixSum r s ≤ 1008 := by
  rw [mixSum_eq_sum]
  constructor
  · exact Finset.card_nsmul_le_sum Finset.univ (fun v : Fin 8 => (s.voices[v]).contribution r) (-128)
      fun v _ => (contribution_bounds r s.voices[v]).1
  · exact Finset.sum_le_card_nsmul Finset.univ (fun v : Fin 8 => (s.voices[v]).contribution r) 126
      fun v _ => (contribution_bounds r s.voices[v]).2

end ranges

/-- Truncation rounds toward zero, so on a negative dividend it exceeds a floor division that is not exact by one. -/
theorem fdiv_eq_tdiv_sub_one {a : Int} (h : a < 0) (hmod : a % 4 ≠ 0) : Int.fdiv a 4 = Int.tdiv a 4 - 1 := by
  have hexact : ¬(0 ≤ a ∨ (4 : Int) ∣ a) := by omega
  rw [Int.fdiv_eq_ediv_of_nonneg a (by decide), Int.tdiv_eq_ediv, if_neg hexact]
  exact (Int.add_sub_cancel _ _).symm

/-- The biased mix modulo 256 (R142). -/
theorem outputSample_toNat (sum : Int) : ((outputSample sum).toNat : Int) = (Int.fdiv sum 4 + 127) % 256 := by
  rw [outputSample_eq_fdiv, toNat_ofInt_eq_emod]
  rfl

/-- Settles O42: floor division by 256 and by 4, and the ranges, which follow from those of a signed and an unsigned byte. -/
theorem mixerArithmetic : Obligations.MixerArithmetic := by
  refine ⟨scaleSample_eq_fdiv, fun r x => ⟨(product_bounds r x).1, (product_bounds r x).2, contribution_bounds r x⟩,
    by decide, fun r s => ⟨mixSum_eq_sum r s, mixSum_bounds r s⟩, fun sum hlo hhi => ⟨_, rfl, ?_⟩⟩
  have hmix : Int.fdiv sum 4 = sum / 4 := Int.fdiv_eq_ediv_of_nonneg sum (by decide)
  have hout := outputSample_toNat sum
  exact ⟨by omega, by omega, hout, fdiv_eq_tdiv_sub_one, fun _ => by omega, fun _ => by omega⟩

/-! ## PITCH, LEN, LAST and RESP do not reach the engine (R28, R29, R144) -/

/-- A voice without its introspection registers: the engine's part. -/
def Voice.enginePart (x : Voice) : Voice := { x with pitch := 0#7, len := 0#7 }

theorem envelopeStep_enginePart (r : Roms) (x : Voice) : x.enginePart.envelopeStep r = (x.envelopeStep r).enginePart := by
  rw [Voice.envelopeStep, Voice.envelopeStep, apply_ite Voice.enginePart]
  rfl

/-- A contribution reads WSEL, PACC and AMP alone. -/
theorem contribution_enginePart (r : Roms) (x : Voice) : x.enginePart.contribution r = x.contribution r := rfl

/-- The mix reads the engine's parts of the voices alone. -/
theorem mixSum_congr {s₁ s₂ : State} (h : ∀ v, (s₁.voice v).enginePart = (s₂.voice v).enginePart) (r : Roms) :
    mixSum r s₁ = mixSum r s₂ := by
  have hcontribution (v : Channel) : (s₁.voice v).contribution r = (s₂.voice v).contribution r := by
    rw [← contribution_enginePart, h v, contribution_enginePart]
  rw [mixSum, mixSum, funext hcontribution]

/-- A running TICK acts on the engine's part of a voice as on a voice. -/
theorem tick_enginePart {s : State} (hp : s.paused = false) (v : Channel) : ((tick s).voice v).enginePart
    = (if v = s.cursor + 1#3 then (s.voice v).enginePart.envelopeStep Config.roms else (s.voice v).enginePart).phaseStep := by
  rw [tick_voice hp, envelopeStep_enginePart, ← apply_ite Voice.enginePart]
  rfl

/-- The engine's parts of the two states, OUT included, are the same. -/
structure EnginesAgree (s₁ s₂ : State) : Prop where
  paused : s₁.paused = s₂.paused
  cursor : s₁.cursor = s₂.cursor
  out : s₁.out = s₂.out
  voice : ∀ v, (s₁.voice v).enginePart = (s₂.voice v).enginePart

namespace EnginesAgree
variable {s₁ s₂ : State}

theorem tick (h : EnginesAgree s₁ s₂) : EnginesAgree (tick s₁) (tick s₂) := by
  cases hp : s₁.paused with
  | true => rwa [tick_of_paused hp, tick_of_paused (h.paused ▸ hp)]
  | false =>
    have hp₂ : s₂.paused = false := h.paused ▸ hp
    have hvoice (v : Channel) : ((Machine.tick s₁).voice v).enginePart = ((Machine.tick s₂).voice v).enginePart := by
      rw [tick_enginePart hp, tick_enginePart hp₂, h.cursor, h.voice]
    refine ⟨?_, ?_, ?_, hvoice⟩
    · rw [tick_paused, tick_paused, h.paused]
    · rw [tick_cursor hp, tick_cursor hp₂, h.cursor]
    · rw [Machine.tick_out hp, Machine.tick_out hp₂, mixSum_congr hvoice]

theorem ticks (h : EnginesAgree s₁ s₂) (n : Nat) : EnginesAgree (ticks n s₁) (ticks n s₂) := by
  induction n with
  | zero => exact h
  | succ n ih =>
    rw [ticks_succ, ticks_succ]
    exact ih.tick

end EnginesAgree

/-- Settles O44: the agreement of the two engines is kept by every TICK. -/
theorem engineIgnoresIntrospectionState : Obligations.EngineIgnoresIntrospectionState := by
  intro s₁ s₂ n hp hc ho hv
  obtain ⟨-, hcursor, hout, hvoice⟩ := (EnginesAgree.mk hp hc ho hv).ticks n
  exact ⟨hout, hcursor, hvoice⟩

end Sys2Proof.Machine
end

section
/-! The sample engine family (41_sample_engine.md), many TICKs: a voice after any number of TICKs in closed form (R137, R145),
and from it the turn schedule, the end of an envelope and the phase cycle (R135, R145 to R147). -/

namespace Sys2Proof.Machine

/-! ## The two steps of a voice, repeated -/

/-- What a step does not write, repeating it does not write. -/
theorem iterate_keeps {α : Type} {f : Voice → Voice} {g : Voice → α} (h : ∀ x, g (f x) = g x) (n : Nat) (x : Voice) :
    g (f^[n] x) = g x := by
  have hsemi : Function.Semiconj g f id := h
  simpa using (hsemi.iterate_right n).eq x

theorem iterate_phaseStep_pacc (n : Nat) (x : Voice) :
    (Voice.phaseStep^[n] x).pacc.toNat = (x.pacc.toNat + n * x.pinc.toNat) % 2 ^ 16 := by
  induction n with
  | zero => rw [Nat.zero_mul, Nat.add_zero, Nat.mod_eq_of_lt x.pacc.isLt]; rfl
  | succ n ih =>
    rw [Function.iterate_succ_apply', phaseStep_pacc, BitVec.toNat_add, ih, iterate_keeps phaseStep_pinc, Nat.mod_add_mod,
      Nat.add_assoc, Nat.succ_mul]

/-- The two steps write and read different registers, so their order does not matter (R136). -/
theorem envelopeStep_phaseStep_commute (r : Roms) : Function.Commute (Voice.envelopeStep r) Voice.phaseStep := fun x => by
  rw [Voice.envelopeStep, Voice.envelopeStep, apply_ite Voice.phaseStep]
  rfl

section envelope
variable (r : Roms) {x : Voice}

/-- While the sums stay below the sentinel each turn adds EINC. -/
theorem iterate_envelopeStep_eacc {m : Nat} (h : x.eacc.toNat + m * x.einc.toNat < 0x8000) :
    ((Voice.envelopeStep r)^[m] x).eacc.toNat = x.eacc.toNat + m * x.einc.toNat := by
  induction m with
  | zero => rw [Nat.zero_mul]; rfl
  | succ m ih =>
    rw [Nat.succ_mul] at h ⊢
    have hm := ih (by omega)
    rw [Function.iterate_succ_apply', envelopeStep_eacc_of_running r (by omega), hm, iterate_keeps (envelopeStep_einc r)]
    omega

/-- The amplitude of a turn below the sentinel is the entry at the integer part of that turn's sum. -/
theorem iterate_envelopeStep_amp {m : Nat} {j : Fin 512} (h : x.eacc.toNat + (m + 1) * x.einc.toNat < 0x8000)
    (hj : j.val = x.esel.toNat * 128 + (x.eacc.toNat + (m + 1) * x.einc.toNat) / 256) :
    ((Voice.envelopeStep r)^[m + 1] x).amp = r.env j := by
  rw [Nat.succ_mul] at h hj
  have hm := iterate_envelopeStep_eacc r (x := x) (m := m) (by omega)
  have hsum : ((Voice.envelopeStep r)^[m] x).eacc.toNat + ((Voice.envelopeStep r)^[m] x).einc.toNat
      = x.eacc.toNat + (m * x.einc.toNat + x.einc.toNat) := by
    rw [hm, iterate_keeps (envelopeStep_einc r), Nat.add_assoc]
  rw [Function.iterate_succ_apply']
  exact envelopeStep_amp_of_running r (by omega) (by rw [hj, iterate_keeps (envelopeStep_esel r), hsum])

/-- The crossing turn leaves the voice finished, with AMP 0 (R133). -/
theorem envelopeStep_crossing (h : x.eacc.toNat < 0x8000) (ht : 0x8000 ≤ x.eacc.toNat + x.einc.toNat) :
    0x8000 ≤ (x.envelopeStep r).eacc.toNat ∧ (x.envelopeStep r).amp = 0#8 := by
  rw [envelopeStep_eacc_of_running r h]
  exact ⟨by omega, envelopeStep_amp_of_crossing r h ht⟩

/-- From the turn whose sum crosses the sentinel on, the voice is finished with AMP 0: such a voice is a fixed point of the
envelope step. -/
theorem iterate_envelopeStep_of_crossed {m i : Nat} (hlt : x.eacc.toNat + m * x.einc.toNat < 0x8000)
    (hcross : 0x8000 ≤ x.eacc.toNat + (m + 1) * x.einc.toNat) (hi : m + 1 ≤ i) :
    0x8000 ≤ ((Voice.envelopeStep r)^[i] x).eacc.toNat ∧ ((Voice.envelopeStep r)^[i] x).amp = 0#8 := by
  have hm := iterate_envelopeStep_eacc r hlt
  obtain ⟨hfinished, hamp⟩ := envelopeStep_crossing r (x := (Voice.envelopeStep r)^[m] x) (by omega)
    (by rw [hm, iterate_keeps (envelopeStep_einc r), Nat.add_assoc, ← Nat.succ_mul]; exact hcross)
  rw [← Function.iterate_succ_apply' (Voice.envelopeStep r)] at hfinished hamp
  obtain ⟨d, rfl⟩ := Nat.exists_eq_add_of_le hi
  rw [Nat.add_comm, Function.iterate_add_apply,
    Function.iterate_fixed (envelopeStep_of_silent r ((finished_iff _).2 hfinished) hamp)]
  exact ⟨hfinished, hamp⟩

end envelope

/-! ## Turns -/

/-- How many turns a voice has had after `j` TICKs when its first is the `k`-th, 1 to 8. -/
def turnsTaken (k j : Nat) : Nat := (j + 8 - k) / 8

section count
variable {k j : Nat}

theorem turnsTaken_of_lt (h : j < k) : turnsTaken k j = 0 := by
  unfold turnsTaken
  omega

/-- Turn `m + 1` is TICK `8 m + k`. -/
theorem turnsTaken_at_turn (k m : Nat) : turnsTaken k (8 * m + k) = m + 1 := by
  unfold turnsTaken
  omega

/-- Turn `m` has been taken from TICK `8 (m - 1) + k` on. -/
theorem le_turnsTaken_iff {m : Nat} (hm : 0 < m) : m ≤ turnsTaken k j ↔ 8 * (m - 1) + k ≤ j := by
  unfold turnsTaken
  omega

/-- One TICK in eight is a turn. -/
theorem turnsTaken_succ (hk1 : 1 ≤ k) (hk8 : k ≤ 8) (j : Nat) :
    turnsTaken k (j + 1) = if (j + 1) % 8 = k % 8 then turnsTaken k j + 1 else turnsTaken k j := by
  unfold turnsTaken
  split <;> omega

end count

theorem ticks_cursor {s : State} (hp : s.paused = false) (n : Nat) :
    (ticks n s).cursor.toNat = (s.cursor.toNat + n) % 8 := by
  induction n with
  | zero => exact (Nat.mod_eq_of_lt s.cursor.isLt).symm
  | succ n ih =>
    rw [ticks_succ, tick_cursor ((ticks_paused n s).trans hp)]
    exact (nextChannel_toNat _).trans (by omega)

section turns
variable {s : State} {v : Channel} {k : Nat} (hp : s.paused = false) (hk : k = (v.toNat + 7 - s.cursor.toNat) % 8 + 1)
include hp hk

/-- The cursor names the voice at the k-th TICK and at every eighth before and after it (R145). -/
theorem ticks_cursor_eq_iff (j : Nat) : (ticks j s).cursor = v ↔ j % 8 = k % 8 := by
  rw [← BitVec.toNat_inj, ticks_cursor hp]
  omega

/-- A voice after any number of TICKs: an envelope step per turn, a phase step per TICK. -/
theorem ticks_voice (j : Nat) : (ticks j s).voice v
    = Voice.phaseStep^[j] ((Voice.envelopeStep Config.roms)^[turnsTaken k j] (s.voice v)) := by
  have hcomm := (envelopeStep_phaseStep_commute Config.roms).iterate_right
  induction j with
  | zero => rw [turnsTaken_of_lt (by omega)]; rfl
  | succ j ih =>
    have hpj : (ticks j s).paused = false := (ticks_paused j s).trans hp
    have hturn : v = (ticks j s).cursor + 1#3 ↔ (j + 1) % 8 = k % 8 := by
      rw [← tick_cursor hpj, ← ticks_succ, ← ticks_cursor_eq_iff hp hk, eq_comm]
    rw [ticks_succ, tick_voice hpj, ih, turnsTaken_succ (by omega) (by omega), Function.iterate_succ_apply']
    simp only [hturn]
    split
    · rw [(hcomm j).eq, Function.iterate_succ_apply' (Voice.envelopeStep Config.roms)]
    · rfl

theorem ticks_eacc (j : Nat) :
    ((ticks j s).voice v).eacc = ((Voice.envelopeStep Config.roms)^[turnsTaken k j] (s.voice v)).eacc := by
  rw [ticks_voice hp hk, iterate_keeps phaseStep_eacc]

theorem ticks_amp (j : Nat) :
    ((ticks j s).voice v).amp = ((Voice.envelopeStep Config.roms)^[turnsTaken k j] (s.voice v)).amp := by
  rw [ticks_voice hp hk, iterate_keeps phaseStep_amp]

end turns

/-- Settles O45: no turn before TICK k, one turn at TICK k. -/
theorem turnSchedule : Obligations.TurnSchedule := by
  intro s v k hp hk
  have hfirst : turnsTaken k k = 1 := by simpa using turnsTaken_at_turn k 0
  refine ⟨by omega, ticks_cursor hp, fun j hj => ?_, fun j _ => ticks_cursor_eq_iff hp hk j, ?_⟩
  · rw [ticks_eacc hp hk, ticks_amp hp hk, turnsTaken_of_lt hj]
    exact ⟨rfl, rfl⟩
  · rw [ticks_eacc hp hk, ticks_amp hp hk, hfirst, Function.iterate_one]
    refine ⟨envelopeStep_amp_of_finished _, fun t i hrun ht => ?_⟩
    subst ht
    exact ⟨envelopeStep_eacc_of_running _ hrun, envelopeStep_amp_of_crossing _ hrun,
      envelopeStep_amp_of_running Config.roms⟩

/-! ## The length of an envelope (R135, R146) -/

/-- The turns before `ceil(32768 / e)` are those whose sum is below the sentinel. -/
theorem lt_ceil_div_iff {e m : Nat} (he : 0 < e) : m < (32768 + e - 1) / e ↔ m * e < 32768 := by
  rw [Nat.lt_iff_add_one_le, Nat.le_div_iff_mul_le he, Nat.succ_mul]
  omega

/-- Settles O46: before turn n every sum is below the sentinel, and turn n's is not. -/
theorem envelopeTerminates : Obligations.EnvelopeTerminates := by
  intro s v k e n hp hk hacc he hpos hn
  have hsum (m : Nat) : (s.voice v).eacc.toNat + m * (s.voice v).einc.toNat = m * e := by
    rw [hacc, ← he, BitVec.toNat_zero, Nat.zero_add]
  have hlt (m : Nat) : m < n ↔ (s.voice v).eacc.toNat + m * (s.voice v).einc.toNat < 0x8000 := by
    rw [hn, lt_ceil_div_iff hpos, hsum]
  have hn0 : 0 < n := (hlt 0).2 (by rw [hsum]; omega)
  refine ⟨fun m hm hmn => ?_, fun j hj => ?_, fun j hj => ?_⟩
  · obtain ⟨m, rfl⟩ := Nat.exists_eq_add_of_le' hm
    have hbelow := (hlt _).1 hmn
    rw [Nat.add_sub_cancel, ticks_eacc hp hk, ticks_amp hp hk, turnsTaken_at_turn]
    refine ⟨(iterate_envelopeStep_eacc _ hbelow).trans (hsum _),
      fun j hj => iterate_envelopeStep_amp Config.roms hbelow (by rw [hj, hsum]), fun hzero => ?_⟩
    have hle : e ≤ (m + 1) * e := Nat.le_mul_of_pos_left e hm
    omega
  · have hbefore : turnsTaken k j < n := by
      rw [← Nat.not_le, le_turnsTaken_iff hn0]
      omega
    rw [ticks_eacc hp hk, iterate_envelopeStep_eacc _ ((hlt _).1 hbefore)]
    exact (hlt _).1 hbefore
  · obtain ⟨m, rfl⟩ := Nat.exists_eq_add_of_le' hn0
    have hcross := Nat.not_lt.1 ((hlt (m + 1)).not.1 (Nat.lt_irrefl _))
    rw [ticks_eacc hp hk, ticks_amp hp hk]
    exact iterate_envelopeStep_of_crossed _ ((hlt m).1 m.lt_succ_self) hcross ((le_turnsTaken_iff hn0).2 hj)

/-- Settles O55: with EINC 0 every turn's sum is the EACC the voice had at the start. -/
theorem envelopeWithoutIncrementRunsForever : Obligations.EnvelopeWithoutIncrementRunsForever := by
  intro s v k j hp hk hrun heinc hj n
  have hsum (m : Nat) : (s.voice v).eacc.toNat + m * (s.voice v).einc.toNat = (s.voice v).eacc.toNat := by
    rw [heinc]
    rfl
  rw [ticks_eacc hp hk, ticks_amp hp hk]
  refine ⟨BitVec.eq_of_toNat_eq ?_, fun hn => ?_, fun hn => ?_⟩
  · rw [iterate_envelopeStep_eacc _ (by rwa [hsum]), hsum]
  · rw [turnsTaken_of_lt hn]
    rfl
  · have hturn : 1 ≤ turnsTaken k n := (le_turnsTaken_iff Nat.one_pos).2 (by omega)
    obtain ⟨m, hm⟩ := Nat.exists_eq_add_of_le' hturn
    rw [hm]
    exact iterate_envelopeStep_amp Config.roms (by rwa [hsum]) (by rwa [hsum])

/-! ## The phase cycle (R147) -/

theorem ticks_pacc {s : State} (hp : s.paused = false) (v : Channel) (n : Nat) :
    ((ticks n s).voice v).pacc.toNat = ((s.voice v).pacc.toNat + n * (s.voice v).pinc.toNat) % 2 ^ 16 := by
  rw [ticks_voice hp rfl, iterate_phaseStep_pacc, iterate_keeps (envelopeStep_pacc _), iterate_keeps (envelopeStep_pinc _)]

/-- `M / gcd(p, M)` steps of `p` are a multiple of `M`. -/
theorem dvd_div_gcd_mul (p M : Nat) : M ∣ M / Nat.gcd p M * p := by
  rw [Nat.mul_comm, ← Nat.mul_div_assoc p (Nat.gcd_dvd_right p M)]
  exact Nat.dvd_lcm_right p M

/-- Settles O47: the closed form, and a period that adds a multiple of 2^16. -/
theorem phaseCycle : Obligations.PhaseCycle := by
  refine fun s v hp => ⟨ticks_pacc hp v, fun hinc hacc n => ?_, fun _ n => BitVec.eq_of_toNat_eq ?_⟩
  · rw [ticks_pacc hp, hinc, hacc, BitVec.toNat_ofNat, BitVec.toNat_ofNat]
    omega
  · obtain ⟨q, hq⟩ := dvd_div_gcd_mul (s.voice v).pinc.toNat (2 ^ 16)
    rw [ticks_pacc hp, ticks_pacc hp, Nat.add_mul, hq, ← Nat.add_assoc, Nat.add_mul_mod_self_left]

end Sys2Proof.Machine
end

section
/-! The allocator family (42_allocator.md): what NEXT_RR answers (R170), and the invariant of NEXT_MF's scan, from which its
answer follows (R171 to R173, R175). -/

namespace Sys2Proof.Machine

/-! ## NEXT_RR (R170) -/

/-- Settles O23: NEXT_RR and PLAY_NOTE read the same next channel, and START writes the LAST that NEXT_RR then reads. -/
theorem nextRrAnswersTheFollowingChannel : Obligations.NextRrAnswersTheFollowingChannel := by
  refine ⟨fun s => ⟨zext8 (nextChannel s.last), exec_eq_afterCommand _ s, ?_, fun wave pitch env length => ?_⟩,
    fun ch s => ⟨_, runCommands_eq _ s, ?_⟩⟩
  · rw [zext8_channel_toNat, nextChannel_toNat]
  · refine ⟨_, exec_eq_afterCommand _ _, ?_⟩
    rw [afterCommand_playNote]
    exact ⟨(zext8_channel_toNat _).symm, rfl⟩
  · rw [List.foldl_cons, List.foldl_cons, List.foldl_nil, afterCommand_start, afterCommand_nextRr, setLast_last, setResp_resp,
      zext8_channel_toNat, nextChannel_toNat]

/-! ## One step of NEXT_MF's scan (R172) -/

section scan
variable {s : State} {i : Channel}

theorem scanVoice_of_not_eligible (h : ¬(s.voice i).eligible = true) (best : Option (Channel × Byte)) :
    scanVoice s best i = best :=
  if_neg h

theorem scanVoice_none (h : (s.voice i).eligible = true) : scanVoice s none i = some (i, (s.voice i).amp) := if_pos h

theorem scanVoice_some (h : (s.voice i).eligible = true) (b : Channel) (a : Byte) :
    scanVoice s (some (b, a)) i = if (s.voice i).amp < a then some (i, (s.voice i).amp) else some (b, a) :=
  if_pos h

end scan

/-! ## The scan's invariant -/

/-- NEXT_MF prefers channel `b` to `u`, or they are the same: lower AMP, on a tie the lower index (R172, R173). -/
def Preferred (s : State) (b u : Channel) : Prop :=
  (s.voice b).amp.toNat ≤ (s.voice u).amp.toNat ∧
    ((s.voice u).amp.toNat = (s.voice b).amp.toNat → b.toNat ≤ u.toNat)

theorem Preferred.refl (s : State) (b : Channel) : Preferred s b b := ⟨Nat.le_refl _, fun _ => Nat.le_refl _⟩

/-- A strictly lower AMP is preferred whatever the indices. -/
theorem Preferred.of_amp_lt {s : State} {b u : Channel} (h : (s.voice b).amp < (s.voice u).amp) : Preferred s b u :=
  ⟨Nat.le_of_lt h, fun he => absurd he (Nat.ne_of_gt h)⟩

/-- A candidate keeps its place against a later voice whose AMP is not lower. -/
theorem Preferred.of_not_amp_lt {s : State} {b u : Channel} (h : ¬(s.voice u).amp < (s.voice b).amp)
    (hidx : b.toNat < u.toNat) : Preferred s b u :=
  ⟨Nat.not_lt.1 h, fun _ => Nat.le_of_lt hidx⟩

/-- What the candidate says of the channels scanned so far: none of them is eligible, or the candidate is one of them, is
eligible and is preferred to every eligible one. -/
def ScanAnswers (s : State) (scanned : List Channel) : Option (Channel × Byte) → Prop
  | none => ∀ u ∈ scanned, ¬(s.voice u).eligible = true
  | some (b, a) => b ∈ scanned ∧ (s.voice b).eligible = true ∧ a = (s.voice b).amp ∧
      ∀ u ∈ scanned, (s.voice u).eligible = true → Preferred s b u

namespace ScanAnswers
variable {s : State} {scanned : List Channel} {i : Channel}

/-- The channel just scanned becomes the candidate. -/
theorem replace (he : (s.voice i).eligible = true)
    (h : ∀ u ∈ scanned, (s.voice u).eligible = true → Preferred s i u) :
    ScanAnswers s (scanned ++ [i]) (some (i, (s.voice i).amp)) :=
  ⟨List.mem_append_right _ (List.mem_singleton_self i), he, rfl,
    List.forall_mem_append.2 ⟨h, List.forall_mem_singleton.2 fun _ => .refl s i⟩⟩

/-- The candidate stays. -/
theorem keep {b : Channel} {a : Byte} (h : ScanAnswers s scanned (some (b, a)))
    (hi : (s.voice i).eligible = true → Preferred s b i) : ScanAnswers s (scanned ++ [i]) (some (b, a)) := by
  obtain ⟨hmem, hb, ha, hpref⟩ := h
  exact ⟨List.mem_append_left _ hmem, hb, ha, List.forall_mem_append.2 ⟨hpref, List.forall_mem_singleton.2 hi⟩⟩

/-- Scanning a channel above all those scanned keeps the invariant. -/
theorem scanVoice {best : Option (Channel × Byte)} (h : ScanAnswers s scanned best)
    (hi : ∀ u ∈ scanned, u.toNat < i.toNat) : ScanAnswers s (scanned ++ [i]) (scanVoice s best i) := by
  by_cases he : (s.voice i).eligible = true
  · match best with
    | none =>
      rw [scanVoice_none he]
      exact replace he fun u hu hu' => absurd hu' (h u hu)
    | some (b, a) =>
      have ⟨hmem, _, ha, hpref⟩ := h
      subst ha
      rw [scanVoice_some he]
      split
      · next hlt => exact replace he fun u hu hu' => .of_amp_lt (Nat.lt_of_lt_of_le hlt (hpref u hu hu').1)
      · next hge => exact h.keep fun _ => .of_not_amp_lt hge (hi b hmem)
  · rw [scanVoice_of_not_eligible he]
    match best with
    | none => exact List.forall_mem_append.2 ⟨h, List.forall_mem_singleton.2 he⟩
    | some (b, a) => exact h.keep fun he' => absurd he' he

end ScanAnswers

/-- An ascending scan ends with the invariant for the whole list: by induction from the right, as the scan adds channels. -/
theorem scanAnswers_foldl (s : State) {l : List Channel} (hl : l.Pairwise fun u v => u.toNat < v.toNat) :
    ScanAnswers s l (l.foldl (scanVoice s) none) := by
  induction l using List.reverseRecOn with
  | nil => exact fun _ hu => nomatch hu
  | append_singleton l i ih =>
    obtain ⟨hl, -, hi⟩ := List.pairwise_append.1 hl
    rw [List.foldl_append, List.foldl_cons, List.foldl_nil]
    exact (ih hl).scanVoice fun u hu => hi u hu i (List.mem_singleton_self i)

theorem scanAnswers_channels (s : State) : ScanAnswers s channels (channels.foldl (scanVoice s) none) :=
  scanAnswers_foldl s (by decide)

/-! ## NEXT_MF's answer (R171 to R173, R175) -/

/-- Either no voice is eligible and the answer is 0, or the answer is eligible and preferred to every eligible voice. -/
theorem mostFinished_cases (s : State) :
    ((∀ u, ¬(s.voice u).eligible = true) ∧ mostFinished s = 0#3) ∨
    ((s.voice (mostFinished s)).eligible = true ∧
      ∀ u, (s.voice u).eligible = true → Preferred s (mostFinished s) u) := by
  have h := scanAnswers_channels s
  unfold mostFinished
  split
  · next hnone =>
    rw [hnone] at h
    exact .inl ⟨fun u => h u (mem_channels u), rfl⟩
  · next b a hsome =>
    rw [hsome] at h
    obtain ⟨-, hb, -, hpref⟩ := h
    exact .inr ⟨hb, fun u => hpref u (mem_channels u)⟩

/-- Settles O24: the two outcomes of the scan, with "eligible" read as a comparison of numbers. -/
theorem nextMfAnswersTheQuietestEligible : Obligations.NextMfAnswersTheQuietestEligible := by
  intro s
  refine ⟨mostFinished s, zext8 (mostFinished s), exec_eq_afterCommand _ s, zext8_channel_toNat _, ?_⟩
  simp only [← eligible_iff]
  obtain ⟨hnone, hzero⟩ | ⟨hb, hpref⟩ := mostFinished_cases s
  · exact ⟨fun ⟨v, hv⟩ => absurd hv (hnone v), fun _ => hzero⟩
  · exact ⟨fun _ => ⟨hb, hpref⟩, fun hnone => absurd ((eligible_iff _).1 hb) (Nat.not_lt.2 (hnone _))⟩

end Sys2Proof.Machine
end

section
/-! The control family (43_control.md): NOP (R190), PAUSE (R191, R192) and the commands under PAUSED (R191 (b), R223), and the
two raw-operand reads READ_PITCH and READ_LENGTH (R194, R195). -/

namespace Sys2Proof.Machine

/-! ## PAUSE (R191, R192) -/

/-- PAUSE as one update of PAUSED and RESP. -/
theorem afterCommand_pause_eq (s : State) :
    afterCommand .pause s = { s with paused := !s.paused, resp := if s.paused then 0x00#8 else 0x01#8 } := by
  rw [afterCommand_pause]
  cases s.paused <;> rfl

/-- Settles O26: the update that PAUSE is. -/
theorem pauseTogglesAndReports : Obligations.PauseTogglesAndReports := fun s => by
  rw [exec_eq_afterCommand, afterCommand_pause_eq]

/-- Settles O27: the first PAUSE leaves the block paused, so the TICKs between are dropped, and the second inverts PAUSED back. -/
theorem pauseTwiceResumesWhereItWas : Obligations.PauseTwiceResumesWhereItWas := by
  intro s n hs
  refine ⟨_, exec_eq_afterCommand .pause s, ?_⟩
  have hpaused : (afterCommand .pause s).paused = true := by rw [afterCommand_pause_eq, hs]; rfl
  rw [ticks_of_paused n hpaused, exec_eq_afterCommand, afterCommand_pause_eq, hpaused, afterCommand_pause_eq, hs]
  rfl

/-! ## Commands under PAUSED (R191 (b), R223) -/

/-- Only PAUSE reads or writes PAUSED. -/
theorem afterCommand_setPaused {i : Instr} (h : i ≠ .pause) (s : State) (b : Bool) :
    afterCommand i (s.setPaused b) = (afterCommand i s).setPaused b := by
  cases i with
  | pause => exact absurd rfl h
  | _ => rfl

/-- Settles O28: the command's next state from the other PAUSED is its next state with the other PAUSED. -/
theorem commandsIgnorePaused : Obligations.CommandsIgnorePaused := fun i s b hi =>
  ⟨afterCommand i s, exec_eq_afterCommand i s,
    (exec_eq_afterCommand i _).trans (congrArg _ (afterCommand_setPaused hi s b))⟩

/-! ## READ_PITCH and READ_LENGTH (R194, R195) -/

/-- RESP shows a raw operand as its number. -/
theorem zext8_index_toNat (x : Index7) : (zext8 x).toNat = x.toNat := BitVec.toNat_setWidth_of_le (by decide)

/-- What a change of one voice keeps of a voice, it keeps of every voice. -/
theorem modifyVoice_keeps {α : Type} {g : Voice → α} {f : Voice → Voice} (hf : ∀ x, g (f x) = g x) (s : State)
    (u v : Channel) : g ((s.modifyVoice v f).voice u) = g (s.voice u) := by
  rw [modifyVoice_voice]
  split
  · next h => rw [hf, h]
  · rfl

/-! The corner cases the two reads share, for a command `read` that answers the register `g` of its voice. -/

section read
variable {read : Channel → Instr} {g : Voice → Index7}
  (hread : ∀ (ch : Channel) (s : State), afterCommand (read ch) s = s.setResp (zext8 (g (s.voice ch))))
include hread

/-- After RESET the answer is the register's reset value. -/
theorem exec_read_reset (ch : Channel) :
    exec (read ch) State.reset = .next (State.reset.setResp (zext8 (g Voice.reset))) := by
  rw [exec_eq_afterCommand, hread, reset_voice]

/-- After CONFIGURE the answer is what `arm` wrote. -/
theorem runCommands_configure_read (ch : Channel) (w e : BitVec 3) (p l : Index7) (s : State) :
    runCommands [.configure ch w p e l, read ch] s
      = .next ((afterCommand (.configure ch w p e l) s).setResp (zext8 (g ((s.voice ch).arm Config.roms w p e l)))) := by
  rw [runCommands_eq, List.foldl_cons, List.foldl_cons, List.foldl_nil, hread, afterCommand_configure,
    modifyVoice_voice_self]

end read

/-- What `restart` and `silence` keep of a voice, START and STOP of any channel keep of every voice. -/
theorem exec_start_stop_keep {α : Type} {g : Voice → α} (hrestart : ∀ x, g x.restart = g x)
    (hsilence : ∀ x, g x.silence = g x) (ch u : Channel) (s : State) :
    (∃ t, exec (.start u) s = .next t ∧ g (t.voice ch) = g (s.voice ch)) ∧
    (∃ t, exec (.stop u) s = .next t ∧ g (t.voice ch) = g (s.voice ch)) :=
  ⟨⟨_, exec_eq_afterCommand _ s, modifyVoice_keeps hrestart s ch u⟩,
    ⟨_, exec_eq_afterCommand _ s, modifyVoice_keeps hsilence s ch u⟩⟩

/-- Settles O29: READ_PITCH answers PITCH, which `arm` writes with the raw operand and `restart` and `silence` keep. -/
theorem readPitchAnswersTheRawOperand : Obligations.ReadPitchAnswersTheRawOperand := by
  have hread := fun ch s => afterCommand_readPitch s ch
  refine ⟨fun ch s => exec_eq_afterCommand _ s, exec_read_reset hread, fun ch w e p l s => ?_,
    exec_start_stop_keep restart_pitch silence_pitch, fun s => ?_⟩
  · exact ⟨_, runCommands_configure_read hread ch w e p l s, zext8_index_toNat p⟩
  · have hdec : decode 0xCE000000#32 = .readPitch 3 := by decide
    rw [hdec]
    exact ⟨_, runCommands_configure_read hread 3 3 2 69 8 s, rfl⟩

/-- Settles O30: READ_LENGTH answers LEN, which `arm` writes with the raw operand and `restart` and `silence` keep. -/
theorem readLengthAnswersTheRawOperand : Obligations.ReadLengthAnswersTheRawOperand := by
  have hread := fun ch s => afterCommand_readLength s ch
  refine ⟨fun ch s => exec_eq_afterCommand _ s, exec_read_reset hread, fun ch w e p l s => ?_,
    exec_start_stop_keep restart_len silence_len, fun s => ?_⟩
  · exact ⟨_, runCommands_configure_read hread ch w e p l s, zext8_index_toNat l⟩
  · have hdec : decode 0xCF000000#32 = .readLength 3 := by decide
    rw [hdec]
    exact ⟨_, runCommands_configure_read hread 3 3 2 69 8 s, rfl⟩

/-! ## NOP (R190) -/

/-- Settles O25: a word whose opcode is 0 carries NOP's only field, and NOP answers the state it is given. -/
theorem nopChangesNothing : Obligations.NopChangesNothing := by
  have hdec (w : Word) (hw : w.toNat / 2 ^ 29 = 0) : decode w = .nop :=
    Instr.Fits.decode_eq (i := .nop) ((opField_eq_ofNat w).trans (by rw [hw]))
  exact ⟨exec_eq_afterCommand .nop, hdec, hdec 0#32 (by decide)⟩

end Sys2Proof.Machine
end

section
/-! The exception family (60_exceptions.md): no step stops (R210), the order of one cycle's events (R215), and what changes
PAUSED (R223). -/

namespace Sys2Proof.Machine

/-! ## No step faults or is refused (R210) -/

theorem step_of_reset {s : State} {c : PortCycle} {rest : List PortCycle} (hi : s.inputs = c :: rest)
    (hr : c.rst = true) : step s = .next (State.reset.setInputs rest) := by
  simp [step, State.takeEvent, hi, PortCycle.firstEvent, hr, applyReset]

/-- Settles O13: waiting, RESET, a command and a cycle without a command each answer a state. -/
theorem noStepFaultsOrIsRefused : Obligations.NoStepFaultsOrIsRefused := by
  refine ⟨fun s => ?_, ⟨fun r => nomatch r⟩⟩
  cases hi : s.inputs with
  | nil => exact ⟨_, step_of_noInput hi⟩
  | cons c rest =>
    cases hr : c.rst with
    | true => exact ⟨_, step_of_reset hi hr⟩
    | false =>
      cases hv : c.cmdValid with
      | true => exact ⟨_, (step_of_command hi hr hv).trans (exec_eq_afterCommand _ _)⟩
      | false => exact ⟨_, step_of_noCommand hi hr hv⟩

/-! ## The events of one cycle (R215) -/

/-- The first of `n + 1` steps. -/
theorem runSteps_succ {s t : State} (h : step s = .next t) (n : Nat) : runSteps (n + 1) s = runSteps n t := by
  rw [runSteps, h]

/-- The step that runs a command and leaves the cycle's TICK on the port. -/
theorem step_of_commandAndTick {s : State} {c : PortCycle} {rest : List PortCycle} (hi : s.inputs = c :: rest)
    (hr : c.rst = false) (hv : c.cmdValid = true) (ht : c.tick = true) :
    step s = .next ((afterCommand (decode c.cmd) s).setInputs ({ c with cmdValid := false } :: rest)) := by
  rw [step_of_command hi hr hv, if_pos ht, exec_eq_afterCommand, afterCommand_setInputs]

/-- The step that runs the TICK a command left on the port. -/
theorem step_of_tickLeft {c : PortCycle} (hr : c.rst = false) (ht : c.tick = true) (s : State) (rest : List PortCycle) :
    step (s.setInputs ({ c with cmdValid := false } :: rest)) = .next (tick (s.setInputs rest)) := by
  rw [step_of_noCommand (c := { c with cmdValid := false }) (setInputs_inputs s _) hr rfl, if_pos ht]
  rfl

/-- Settles O11: RESET takes the whole cycle. Otherwise the first step is the command, and the second the TICK it leaves. -/
theorem sameCycleCommandBeforeTick : Obligations.SameCycleCommandBeforeTick := by
  refine fun s c rest hi => ⟨step_of_reset hi, fun hr hv ht => ⟨_, exec_eq_afterCommand _ (s.setInputs rest), ?_⟩⟩
  rw [runSteps_succ (step_of_commandAndTick hi hr hv ht), runSteps_succ (step_of_tickLeft hr ht _ _), runSteps,
    afterCommand_setInputs]

/-! ## What changes PAUSED (R223) -/

/-- Settles O33: every other kind of step keeps PAUSED. -/
theorem onlyPauseOrResetChangesPaused : Obligations.OnlyPauseOrResetChangesPaused := by
  intro s t h hne
  obtain ⟨-, rfl⟩ | ⟨c, rest, hi, ⟨hr, -⟩ | ⟨-, hv, rfl⟩ | ⟨-, -, -, rfl⟩ | ⟨-, -, -, rfl⟩⟩ := step_cases h
  · exact absurd rfl hne
  · exact ⟨c, rest, hi, .inl hr⟩
  · have hpause : decode c.cmd = .pause := by_contra fun hc => hne (afterCommand_paused hc _)
    exact ⟨c, rest, hi, .inr ⟨hv, hpause⟩⟩
  · exact absurd (tick_paused _) hne
  · exact absurd rfl hne

end Sys2Proof.Machine
end

section
/-! The reset and hazards family (70_reset_and_hazards.md): what RESET writes (R230), the silent block (R231), the latency of
START and STOP (R236, R237), and the sequence bracketed by PAUSE (R239). -/

namespace Sys2Proof.Machine

/-! ## RESET and the silent block (R230, R231) -/

/-- Settles O12: the step is `State.reset` with the cycles still to come, and every voice of it is `Voice.reset`. -/
theorem resetSetsEveryRegister : Obligations.ResetSetsEveryRegister := by
  refine fun s c rest hi hr => ⟨_, step_of_reset hi hr, rfl, rfl, fun v => ?_, rfl, rfl, rfl, rfl, rfl⟩
  rw [setInputs_voice, reset_voice]
  decide

theorem Silent.ticks {s : State} (h : Silent s) (n : Nat) : Silent (ticks n s) := by
  induction n with
  | zero => exact h
  | succ n ih =>
    rw [ticks_succ]
    exact ih.tick

/-- Settles O48: RESET writes OUT 127, and a TICK of the silent block writes it again. -/
theorem silentBlockOutputsMidScale : Obligations.SilentBlockOutputsMidScale := by
  refine ⟨fun s hs hp => ⟨hs.tick_out hp, hs.tick⟩, fun n => ⟨silent_reset.ticks n, ?_⟩⟩
  cases n with
  | zero => rfl
  | succ n =>
    rw [ticks_succ]
    exact (silent_reset.ticks n).tick_out (ticks_paused n State.reset)

/-! ## The latency of START and STOP (R236, R237) -/

theorem afterCommand_start_voice (s : State) (v : Channel) :
    (afterCommand (.start v) s).voice v = (s.voice v).restart := by
  rw [afterCommand_start, setLast_voice, modifyVoice_voice_self]

theorem afterCommand_stop_voice (s : State) (v : Channel) :
    (afterCommand (.stop v) s).voice v = (s.voice v).silence := by
  rw [afterCommand_stop, modifyVoice_voice_self]

/-- Settles O50: START is the schedule of a voice whose EACC is 0, so that its first sum is EINC, and whose PACC is 0. -/
theorem startTakesEffectAtTheNextTurn : Obligations.StartTakesEffectAtTheNextTurn := by
  intro s v k hp hk
  have hvoice := afterCommand_start_voice s v
  have hpt : (afterCommand (.start v) s).paused = false := (afterCommand_paused Instr.noConfusion s).trans hp
  obtain ⟨-, -, hhold, -, -, hturn⟩ := turnSchedule _ v k hpt hk
  have hrun : (s.voice v).restart.eacc.toNat < 0x8000 := by rw [restart_eacc]; decide
  have hsum : (s.voice v).einc.toNat = (s.voice v).restart.eacc.toNat + (s.voice v).restart.einc.toNat :=
    (Nat.zero_add _).symm
  rw [hvoice] at hhold hturn
  refine ⟨_, exec_eq_afterCommand _ s, fun j hj => ⟨(hhold j hj).2, ?_⟩, fun i hi hlt => ?_, fun hge => ?_⟩
  · rw [ticks_pacc hpt, hvoice, restart_pacc, restart_pinc, BitVec.toNat_zero, Nat.zero_add]
  · exact (hturn _ i hrun hsum).2.2 hlt hi
  · exact (hturn _ 0 hrun hsum).2.1 hge

/-- From its first turn on, a voice that was finished before it has AMP 0: that turn writes it, and later ones find it
written (R132). -/
theorem iterate_envelopeStep_amp_of_finished (r : Roms) {x : Voice} (h : 0x8000 ≤ x.eacc.toNat) {i : Nat} (hi : 1 ≤ i) :
    ((Voice.envelopeStep r)^[i] x).amp = 0#8 := by
  obtain ⟨m, rfl⟩ := Nat.exists_eq_add_of_le' hi
  have hfixed : (x.envelopeStep r).envelopeStep r = x.envelopeStep r := by
    rw [envelopeStep_of_finished r x h]
    exact envelopeStep_of_silent r ((finished_iff _).2 h) rfl
  rw [Function.iterate_succ_apply, Function.iterate_fixed hfixed, envelopeStep_amp_of_finished r h]

/-- Settles O51: the TICKs before the k-th are no turn of the voice, and every turn finds it finished. -/
theorem stopTakesEffectAtTheNextTurn : Obligations.StopTakesEffectAtTheNextTurn := by
  intro s v k hp hk
  have hvoice := afterCommand_stop_voice s v
  have hpt : (afterCommand (.stop v) s).paused = false := (afterCommand_paused Instr.noConfusion s).trans hp
  obtain ⟨hbounds, -, hhold, -⟩ := turnSchedule _ v k hpt hk
  rw [hvoice] at hhold
  have hamp (j : Nat) (hj : k ≤ j) : ((ticks j (afterCommand (.stop v) s)).voice v).amp = 0#8 := by
    rw [ticks_amp hpt hk, hvoice]
    exact iterate_envelopeStep_amp_of_finished _ (Nat.le_refl _) ((le_turnsTaken_iff Nat.one_pos).2 (by omega))
  exact ⟨hbounds, _, exec_eq_afterCommand _ s, congrArg Voice.eacc hvoice, fun j hj => (hhold j hj).2,
    fun j hj => ⟨hamp j hj, contribution_of_amp_zero _ (hamp j hj)⟩⟩

/-! ## Runs of steps -/

/-- Some number of steps leads from `s` to `t`. -/
def Reaches (s t : State) : Prop := ∃ n, runSteps n s = .next t

theorem runSteps_add {m : Nat} {s t : State} (h : runSteps m s = .next t) (n : Nat) :
    runSteps (m + n) s = runSteps n t := by
  induction m generalizing s with
  | zero =>
    obtain rfl : s = t := by simpa [runSteps] using h
    rw [Nat.zero_add]
  | succ m ih =>
    obtain ⟨u, hu⟩ := noStepFaultsOrIsRefused.1 s
    rw [runSteps_succ hu] at h
    rw [Nat.succ_add, runSteps_succ hu, ih h]

namespace Reaches
variable {s t u : State}

theorem refl (s : State) : Reaches s s := ⟨0, rfl⟩

theorem of_step (h : step s = .next t) : Reaches s t := ⟨1, runSteps_succ h 0⟩

theorem trans (hst : Reaches s t) (htu : Reaches t u) : Reaches s u := by
  obtain ⟨m, hm⟩ := hst
  obtain ⟨n, hn⟩ := htu
  exact ⟨m + n, (runSteps_add hm n).trans hn⟩

end Reaches

/-! ## The sequence bracketed by PAUSE (R239) -/

/-- What a cycle without RESET leaves while the block is paused: its command alone, if it presents one. -/
def afterPausedCycle (s : State) (c : PortCycle) : State :=
  if c.cmdValid then afterCommand (decode c.cmd) s else s

section cycle
variable {c : PortCycle} (s : State)

theorem afterPausedCycle_of_command (hv : c.cmdValid = true) :
    afterPausedCycle s c = afterCommand (decode c.cmd) s :=
  if_pos hv

theorem afterPausedCycle_of_noCommand (hv : c.cmdValid = false) : afterPausedCycle s c = s :=
  if_neg (Bool.eq_false_iff.1 hv)

end cycle

/-- The cycle has no RESET and its command, if any, is not PAUSE. -/
abbrev KeepsPaused (c : PortCycle) : Prop := c.rst = false ∧ (c.cmdValid = true → decode c.cmd ≠ .pause)

theorem afterPausedCycle_paused {c : PortCycle} (hc : KeepsPaused c) (s : State) :
    (afterPausedCycle s c).paused = s.paused := by
  cases hv : c.cmdValid with
  | true => rw [afterPausedCycle_of_command s hv, afterCommand_paused (hc.2 hv)]
  | false => rw [afterPausedCycle_of_noCommand s hv]

/-- A cycle with a command and no TICK is one step, paused or not. -/
theorem reaches_of_commandAlone {c : PortCycle} (hr : c.rst = false) (hv : c.cmdValid = true) (ht : c.tick = false)
    (s : State) (rest : List PortCycle) :
    Reaches (s.setInputs (c :: rest)) ((afterCommand (decode c.cmd) s).setInputs rest) := by
  have hstep := step_of_command (setInputs_inputs s (c :: rest)) hr hv
  rw [ht, exec_eq_afterCommand, afterCommand_setInputs, afterCommand_setInputs] at hstep
  exact .of_step hstep

/-- A TICK that stands alone in its cycle, or is left there by a command, is dropped while paused (R130). -/
theorem step_noCommand_of_paused {s : State} (hp : s.paused = true) {c : PortCycle} (hr : c.rst = false)
    (hv : c.cmdValid = false) (rest : List PortCycle) : step (s.setInputs (c :: rest)) = .next (s.setInputs rest) := by
  rw [step_of_noCommand (setInputs_inputs s _) hr hv]
  split
  · exact congrArg _ (tick_of_paused (s := s.setInputs rest) hp)
  · rfl

/-- While paused a cycle comes to its command, run in one step, and its TICK, dropped in the step after it (R215). -/
theorem reaches_afterPausedCycle {s : State} (hp : s.paused = true) {c : PortCycle} (hc : KeepsPaused c)
    (rest : List PortCycle) : Reaches (s.setInputs (c :: rest)) ((afterPausedCycle s c).setInputs rest) := by
  have hpaused := (afterPausedCycle_paused hc s).trans hp
  cases hv : c.cmdValid with
  | false =>
    rw [afterPausedCycle_of_noCommand s hv]
    exact .of_step (step_noCommand_of_paused hp hc.1 hv rest)
  | true =>
    rw [afterPausedCycle_of_command s hv] at hpaused ⊢
    cases ht : c.tick with
    | false => exact reaches_of_commandAlone hc.1 hv ht s rest
    | true =>
      have hcommand := step_of_commandAndTick (setInputs_inputs s (c :: rest)) hc.1 hv ht
      rw [afterCommand_setInputs] at hcommand
      exact (Reaches.of_step hcommand).trans
        (.of_step (step_noCommand_of_paused (c := { c with cmdValid := false }) hpaused hc.1 rfl rest))

/-- Cycle by cycle: the block stays paused, so each leaves its command alone. -/
theorem reaches_foldl_afterPausedCycle {s : State} (hp : s.paused = true) {cs : List PortCycle}
    (hcs : ∀ c ∈ cs, KeepsPaused c) (rest : List PortCycle) :
    Reaches (s.setInputs (cs ++ rest)) ((cs.foldl afterPausedCycle s).setInputs rest) := by
  induction cs generalizing s with
  | nil => exact .refl _
  | cons c cs ih =>
    obtain ⟨hc, hcs⟩ := List.forall_mem_cons.1 hcs
    exact (reaches_afterPausedCycle hp hc (cs ++ rest)).trans (ih ((afterPausedCycle_paused hc s).trans hp) hcs)

/-- The commands the cycles present, run one after the other, are what the cycles leave while paused. -/
theorem foldl_afterCommand_commands (cs : List PortCycle) (s : State) :
    (cs.filterMap PortCycle.command).foldl (fun s i => afterCommand i s) s = cs.foldl afterPausedCycle s := by
  induction cs generalizing s with
  | nil => rfl
  | cons c cs ih =>
    rw [List.foldl_cons, ← ih]
    cases hv : c.cmdValid with
    | true =>
      have hcommand : c.command = some (decode c.cmd) := if_pos hv
      rw [List.filterMap_cons_some hcommand, List.foldl_cons, afterPausedCycle_of_command s hv]
    | false =>
      have hcommand : c.command = none := if_neg (Bool.eq_false_iff.1 hv)
      rw [List.filterMap_cons_none hcommand, afterPausedCycle_of_noCommand s hv]

/-- The commands alone, as one equation: they neither read nor write the port samples. -/
theorem runCommands_setInputs (is : List Instr) (s : State) (l : List PortCycle) :
    runCommands is (s.setInputs l) = .next ((is.foldl (fun s i => afterCommand i s) s).setInputs l) := by
  rw [runCommands_eq]
  exact congrArg _ (List.foldl_hom (·.setInputs l) fun t i => afterCommand_setInputs i t l)

/-- Settles O52: the first PAUSE pauses the block, each cycle up to the second leaves its command alone, and the second PAUSE
is a command alone again. -/
theorem pauseBracketDropsEveryTick : Obligations.PauseBracketDropsEveryTick := by
  intro s cs hp hcs
  have hpaused : (afterCommand .pause s).paused = true := by rw [afterCommand_pause_eq, hp]; rfl
  have hpause (u : State) (rest : List PortCycle) :
      Reaches (u.setInputs (commandCycle 0xA0000000#32 :: rest)) ((afterCommand .pause u).setInputs rest) :=
    reaches_of_commandAlone (c := commandCycle 0xA0000000#32) rfl rfl rfl u rest
  obtain ⟨n, hn⟩ := (hpause s _).trans ((reaches_foldl_afterPausedCycle hpaused hcs _).trans (hpause _ []))
  refine ⟨n, _, runCommands_setInputs _ s [], hn.trans ?_⟩
  rw [List.foldl_cons, List.foldl_append, foldl_afterCommand_commands]
  rfl

end Sys2Proof.Machine
end

section
/-! The words the spec writes out (95_test_vectors.md 2.1). -/

namespace Sys2Proof

/-- Settles O8: by `decode_eq_iff` each word need only carry its command's opcode, sub-opcode and operands, and these fields of
a literal word are computed. -/
theorem exampleWordsDecode : Obligations.ExampleWordsDecode := by
  simp only [Obligations.ExampleWordsDecode, decode_eq_iff, Instr.Fits]
  decide

end Sys2Proof
end
